-- ==== Sys2Proof/Word.lean ====
section
/-!
DEFINITION. The byte and the 16-bit word (00_scope R12), and the ASCII codes the wire protocol is written in
(00_scope R14).
-/
namespace Sys2Proof

/-- A byte, 0..255 (R12). -/
abbrev Byte := BitVec 8

/-- A 16-bit value: the result of a pin or analog read, a fatal code (R42, R272). -/
abbrev Word16 := BitVec 16

namespace Ascii

/-- NUL (R14). -/
abbrev nul : Byte := 0x00#8
/-- LF, `\n` (R14). -/
abbrev lf : Byte := 0x0A#8
/-- CR, `\r` (R14). -/
abbrev cr : Byte := 0x0D#8
/-- The space (R14). -/
abbrev space : Byte := 0x20#8
/-- `'!'` (R14). -/
abbrev bang : Byte := 0x21#8
/-- `'0'` (R14). -/
abbrev zero : Byte := 0x30#8
/-- `'>'` (R14). -/
abbrev gt : Byte := 0x3E#8

end Ascii

/-- `CRLF`: the two bytes 0x0D 0x0A in that order (R14). -/
abbrev crlf : List Byte := [Ascii.cr, Ascii.lf]

/-- The prefix of the fatal diagnostic, `ERROR` and a space (30_encoding R111). -/
abbrev errorText : List Byte := [0x45#8, 0x52#8, 0x52#8, 0x4F#8, 0x52#8, Ascii.space]

/-- The startup banner: a blank line, `>Z`, CRLF (30_encoding R110). -/
abbrev banner : List Byte := [Ascii.cr, Ascii.lf, Ascii.gt, 0x5A#8, Ascii.cr, Ascii.lf]

end Sys2Proof
end

