-- ==== Sys2Proof/Syntax.lean ====
section
/-!
DEFINITION. The instructions of the block: one constructor per row of spec/opcode_table.json (26 operations of
30_encoding R91, 13 wire commands of R97 to R99 and R107), with the operands the spec carries beside them.
-/
namespace Sys2Proof

/-- A channel index, 0..3 (00_scope R8). `ch0` is the control channel, the others are auxiliary. -/
inductive Channel where
  | ch0 | ch1 | ch2 | ch3
  deriving DecidableEq, Repr

/-- Direction of a ring buffer: receive or transmit (30_encoding R90). -/
inductive Dir where
  | rx | tx
  deriving DecidableEq, Repr

/-- A queue selector `q = c ‖ dir` (30_encoding R90): one of the eight ring buffers. -/
structure Queue where
  chan : Channel
  dir : Dir
  deriving DecidableEq, Repr

/-- `rx[c]`. -/
abbrev Queue.rx (c : Channel) : Queue := ⟨c, .rx⟩
/-- `tx[c]`. -/
abbrev Queue.tx (c : Channel) : Queue := ⟨c, .tx⟩

/-- A pin index, 0..7 (00_scope R10). -/
abbrev Pin := Fin 8

/-- The six fatal kinds, in the order of their numbers 0..5 (60_exceptions R271). -/
inductive FatalKind where
  | lineTooShort | pinRange | badPort | emptyPayload | badAnalogPort | lineTooLong
  deriving DecidableEq, Repr

/-- The instructions. The `CMD` constructors hold the bytes of the command line after its first byte: for a `G3`
line port letter, pin digit and whatever follows, for a `FWD` line the payload (30_encoding R96, R98). -/
inductive Instr where
  | rbPush (q : Queue) (b : Byte)
  | rbPop (q : Queue)
  | rbEmpty (q : Queue)
  | rbFull (q : Queue)
  | rbPushd (q : Queue) (b : Byte)
  | chRxi (c : Channel) (b : Byte)
  | chTxi (c : Channel)
  | chTx (c : Channel) (b : Byte)
  | chDrain (c : Channel)
  | lfAppend (c : Channel)
  | lfReset (c : Channel)
  | pmPoll
  | pmWatch (p : Nat) (i : Pin)
  | pmUnwatch (p : Nat) (i : Pin)
  | clkTick
  | cdDispatch
  | schA
  | schB (k : Channel)
  | schC
  | sysStart
  | sysFatal (kind : FatalKind)
  | sysCritEnter
  | sysCritExit (saved : Bool)
  | envRxbyte (c : Channel) (b : Byte)
  | envTxrdy (c : Channel)
  | envReset
  | cmdZ
  | cmdFwd1 (payload : List Byte)
  | cmdFwd2 (payload : List Byte)
  | cmdFwd3 (payload : List Byte)
  | cmdH (args : List Byte)
  | cmdL (args : List Byte)
  | cmdU (args : List Byte)
  | cmdD (args : List Byte)
  | cmdI (args : List Byte)
  | cmdA (args : List Byte)
  | cmdM (args : List Byte)
  | cmdN (args : List Byte)
  | cmdUnk (op : Byte) (args : List Byte)
  deriving DecidableEq, Repr

end Sys2Proof
end

