-- ==== Sys2Proof/Config.lean ====
section
/-!
DEFINITION. The parameters the spec leaves open (92_eei_decisions "Open parameters, gathered"; 00_scope R8 to R11)
as one record of plain data, the constants it fixes, and the free values of the model: constants without a body.
-/
namespace Sys2Proof

/-- One value per channel (00_scope R8: `NCH = 4`). -/
structure Four (α : Type) where
  c0 : α
  c1 : α
  c2 : α
  c3 : α
  deriving DecidableEq, Repr

/-- Element `c` of a per-channel array. -/
def Four.get {α : Type} (f : Four α) : Channel → α
  | .ch0 => f.c0
  | .ch1 => f.c1
  | .ch2 => f.c2
  | .ch3 => f.c3

/-- The array with element `c` replaced. -/
def Four.set {α : Type} (f : Four α) (c : Channel) (v : α) : Four α :=
  match c with
  | .ch0 => { f with c0 := v }
  | .ch1 => { f with c1 := v }
  | .ch2 => { f with c2 := v }
  | .ch3 => { f with c3 := v }

/-- The same value on every channel. -/
abbrev Four.all {α : Type} (v : α) : Four α := ⟨v, v, v, v⟩

/-- One value per fatal kind (60_exceptions R271). -/
structure PerKind (α : Type) where
  lineTooShort : α
  pinRange : α
  badPort : α
  emptyPayload : α
  badAnalogPort : α
  lineTooLong : α
  deriving DecidableEq, Repr

/-- The value of one kind. -/
def PerKind.get {α : Type} (f : PerKind α) : FatalKind → α
  | .lineTooShort => f.lineTooShort
  | .pinRange => f.pinRange
  | .badPort => f.badPort
  | .emptyPayload => f.emptyPayload
  | .badAnalogPort => f.badAnalogPort
  | .lineTooLong => f.lineTooLong

/-- `FATAL_ACTION` (60_exceptions R276). -/
inductive FatalAction where
  | spin | watchdog
  deriving DecidableEq, Repr

/-- The open parameters. No rule gives their values; every statement about a state holds for every value of them. -/
structure Config where
  /-- `N_RX[c]`, the capacity of `rx[c]` (R9). -/
  nRx : Four Nat
  /-- `N_TX[c]`, the capacity of `tx[c]` (R9). -/
  nTx : Four Nat
  /-- `L`, the line-buffer capacity (R10). -/
  lineCap : Nat
  /-- `IDXW`, the width of an index register (20_memory R66). -/
  idxw : Nat
  /-- `BAUD[c]`, read by no rule (R10). -/
  baud : Four Nat
  /-- `PORTS`, the logical port letters in order (R10). -/
  ports : List Byte
  /-- `ANALOG_PORTS`, the analog-capable port letters (R10). -/
  analogPorts : List Byte
  /-- `LAST0[p]`, what `last[p]` is after reset (10_state R46). -/
  last0 : List Byte
  /-- `FATAL_ACTION` (60_exceptions R276). -/
  fatalAction : FatalAction
  /-- `FATAL_CODE(kind)` (60_exceptions R272). -/
  fatalCode : PerKind Word16
  /-- `FATAL_MSG(kind)` (60_exceptions R272). -/
  fatalMsg : PerKind (List Byte)
  /-- `WDT_TIMEOUT`, used by no rule (60_exceptions R296). -/
  wdtTimeout : Nat
  deriving DecidableEq, Repr

/-- `P`, the number of logical ports (R10). -/
abbrev Config.numPorts (cfg : Config) : Nat := cfg.ports.length

/-- The capacity `N` of a ring buffer (10_state R21). -/
def Config.capacity (cfg : Config) (q : Queue) : Nat :=
  match q.dir with
  | .rx => cfg.nRx.get q.chan
  | .tx => cfg.nTx.get q.chan

/-- Every capacity is at least 2 and fits the index width (R9, 20_memory R66; 93 U8, U9). -/
abbrev Config.capacityOk (cfg : Config) (n : Nat) : Prop := 2 ≤ n ∧ n ≤ 2 ^ cfg.idxw

/-- The bounds the spec puts on the parameters (R9, R10; R66; R272). A configuration that breaks one is no machine of the
spec (93 U8, U9: "refuse to instantiate"; log 23). -/
abbrev Config.wf (cfg : Config) : Prop :=
  (cfg.capacityOk cfg.nRx.c0 ∧ cfg.capacityOk cfg.nRx.c1 ∧ cfg.capacityOk cfg.nRx.c2 ∧ cfg.capacityOk cfg.nRx.c3) ∧
  (cfg.capacityOk cfg.nTx.c0 ∧ cfg.capacityOk cfg.nTx.c1 ∧ cfg.capacityOk cfg.nTx.c2 ∧ cfg.capacityOk cfg.nTx.c3) ∧
  4 ≤ cfg.lineCap ∧
  cfg.ports.Nodup ∧ cfg.ports.length ≤ 256 ∧
  cfg.analogPorts.Nodup ∧ cfg.analogPorts.length = 2 ∧ (∀ l ∈ cfg.analogPorts, l ∈ cfg.ports) ∧
  cfg.last0.length = cfg.ports.length ∧
  (∀ m ∈ [cfg.fatalMsg.lineTooShort, cfg.fatalMsg.pinRange, cfg.fatalMsg.badPort, cfg.fatalMsg.emptyPayload,
      cfg.fatalMsg.badAnalogPort, cfg.fatalMsg.lineTooLong], Ascii.cr ∉ m ∧ Ascii.lf ∉ m)

/-- `POLL_TICKS` = 20 (R10). -/
abbrev pollTicks : Nat := 20

/-- Test configuration `T0` of 95_test_vectors, with the capacities of its programs P2 and P3. It is the configuration
of `State.reset` (DESIGN CHOICE, log 1): the spec makes it no claim about the device. -/
def Config.t0 : Config where
  nRx := .all 8
  nTx := .all 16
  lineCap := 8
  idxw := 8
  baud := .all 0
  ports := [0x41#8, 0x42#8, 0x43#8, 0x46#8, 0x4B#8]
  analogPorts := [0x46#8, 0x4B#8]
  last0 := [0x00#8, 0x00#8, 0x00#8, 0x00#8, 0x00#8]
  fatalAction := .watchdog
  fatalCode := ⟨0#16, 1#16, 2#16, 3#16, 4#16, 5#16⟩
  fatalMsg :=
    { lineTooShort := [0x73#8, 0x68#8, 0x6F#8, 0x72#8, 0x74#8]
      pinRange := [0x70#8, 0x69#8, 0x6E#8]
      badPort := [0x70#8, 0x6F#8, 0x72#8, 0x74#8]
      emptyPayload := [0x65#8, 0x6D#8, 0x70#8, 0x74#8, 0x79#8]
      badAnalogPort := [0x61#8, 0x6E#8, 0x61#8, 0x6C#8, 0x6F#8, 0x67#8]
      lineTooLong := [0x6C#8, 0x6F#8, 0x6E#8, 0x67#8] }
  wdtTimeout := 0

/-- FREE VALUE: the level of the transmitter-ready flag of a channel (its index) after draw number `n` (a reset event);
the spec leaves it unspecified (10_state R46, 93 U3; log 10). -/
opaque Config.freeTxReady : Nat → Nat → Bool

/-- FREE VALUE: the input register of port `p` after draw number `n` (a reset event); the spec leaves it unspecified
(10_state R46; log 10). -/
opaque Config.freePinIn : Nat → Nat → Byte

/-- FREE VALUE: the analog sample of draw number `n` where the environment has decided none: any 16-bit value
(10_state R42; log 11). -/
opaque Config.freeAdc : Nat → Word16

end Sys2Proof
end

