-- ==== Sys2Proof/WellFormed.lean ====
section
/-!
DEFINITION. Which terms of `Instr` are instructions of the block: operands in range (30_encoding R90, 93 U7), command
lines as the Line Framer can deliver them (30_encoding R93, R95, R98).
-/
namespace Sys2Proof

/-- A byte the framer stores inside a line: not a terminator (R93). -/
abbrev lineByte (b : Byte) : Prop := b ≠ Ascii.cr ∧ b ≠ Ascii.lf

/-- The bytes after the first one of a line (R93, R98). -/
abbrev lineBytes (bs : List Byte) : Prop := ∀ b ∈ bs, lineByte b

/-- The first bytes that select another command than `CMD.UNK`: the three forward digits and the eight operation
letters (R95, R97, R98). -/
abbrev definedFirstBytes : List Byte :=
  [0x31#8, 0x32#8, 0x33#8, 0x48#8, 0x4C#8, 0x55#8, 0x44#8, 0x49#8, 0x41#8, 0x4D#8, 0x4E#8]

/-- The operand values an instruction can carry in a request: port index in one byte, `SCH.B` on an auxiliary channel
(93 U7), `RB.PUSHD` on a receive buffer (40_ring_buffer R136), line bytes without a terminator, and `CMD.UNK` only for a
line no other command claims (R95, R107). -/
abbrev Instr.wf : Instr → Prop
  | .rbPush _ _ => True
  | .rbPop _ => True
  | .rbEmpty _ => True
  | .rbFull _ => True
  | .rbPushd q _ => q.dir = .rx
  | .chRxi _ _ => True
  | .chTxi _ => True
  | .chTx _ _ => True
  | .chDrain _ => True
  | .lfAppend _ => True
  | .lfReset _ => True
  | .pmPoll => True
  | .pmWatch p _ => p < 256
  | .pmUnwatch p _ => p < 256
  | .clkTick => True
  | .cdDispatch => True
  | .schA => True
  | .schB k => k ≠ .ch0
  | .schC => True
  | .sysStart => True
  | .sysFatal _ => True
  | .sysCritEnter => True
  | .sysCritExit _ => True
  | .envRxbyte _ _ => True
  | .envTxrdy _ => True
  | .envReset => True
  | .cmdZ => True
  | .cmdFwd1 payload => lineBytes payload
  | .cmdFwd2 payload => lineBytes payload
  | .cmdFwd3 payload => lineBytes payload
  | .cmdH args => lineBytes args
  | .cmdL args => lineBytes args
  | .cmdU args => lineBytes args
  | .cmdD args => lineBytes args
  | .cmdI args => lineBytes args
  | .cmdA args => lineBytes args
  | .cmdM args => lineBytes args
  | .cmdN args => lineBytes args
  | .cmdUnk op args =>
    op ∉ definedFirstBytes ∧ op ≠ Ascii.nul ∧ lineByte op ∧ lineBytes args ∧ ¬(op = 0x5A#8 ∧ args = [])

/-- The bytes of a command line, in order; an operation has none. -/
def Instr.lineText : Instr → List Byte
  | .cmdZ => [0x5A#8]
  | .cmdFwd1 payload => 0x31#8 :: payload
  | .cmdFwd2 payload => 0x32#8 :: payload
  | .cmdFwd3 payload => 0x33#8 :: payload
  | .cmdH args => 0x48#8 :: args
  | .cmdL args => 0x4C#8 :: args
  | .cmdU args => 0x55#8 :: args
  | .cmdD args => 0x44#8 :: args
  | .cmdI args => 0x49#8 :: args
  | .cmdA args => 0x41#8 :: args
  | .cmdM args => 0x4D#8 :: args
  | .cmdN args => 0x4E#8 :: args
  | .cmdUnk op args => op :: args
  | .rbPush _ _ | .rbPop _ | .rbEmpty _ | .rbFull _ | .rbPushd _ _ | .chRxi _ _ | .chTxi _ | .chTx _ _ |
    .chDrain _ | .lfAppend _ | .lfReset _ | .pmPoll | .pmWatch _ _ | .pmUnwatch _ _ | .clkTick | .cdDispatch |
    .schA | .schB _ | .schC | .sysStart | .sysFatal _ | .sysCritEnter | .sysCritExit _ | .envRxbyte _ _ |
    .envTxrdy _ | .envReset => []

/-- The operands that depend on the configuration: the port index below `P` (93 U7), the line shorter than `L`
(30_encoding R98, R113; 10_state R26). -/
abbrev Instr.fits (cfg : Config) (i : Instr) : Prop :=
  i.lineText.length < cfg.lineCap ∧
    match i with
    | .pmWatch p _ => p < cfg.numPorts
    | .pmUnwatch p _ => p < cfg.numPorts
    | _ => True

end Sys2Proof
end

