-- ==== Sys2Proof/Decode.lean ====
section
/-!
DEFINITION. The two encodings of 30_encoding: operation requests (R90, R91: an 8-bit select code, operands beside it)
and command lines (R94 to R99). The decoder is total on any bytes and rejects by name; the encoder stands after it.

The byte layout of the operands beside the code is the model's (DESIGN CHOICE, log 2): one byte each, in the order of
the table: `q` as `c ‖ dir`, then `c`, `b`, `p`, `i`, `k`, kind number, saved bit; no byte for an operand the table fixes, the
`c = 0` of `CD.DISPATCH`.
-/
namespace Sys2Proof

/-- A request to the block: bytes of the operation layer, or a command line (log 2, 3). -/
inductive Request where
  /-- A select code and its operand bytes (R90). -/
  | op (bytes : List Byte)
  /-- A command line without its terminator (R94). -/
  | line (bytes : List Byte)
  deriving DecidableEq, Repr

/-- Why a request is no instruction (93 U6, U7). -/
inductive DecodeError where
  /-- No byte at all. -/
  | empty
  /-- A select code outside the table of R91. -/
  | unknownCode (code : Byte)
  /-- Too few or too many operand bytes for the code. -/
  | operandCount (code : Byte)
  /-- A channel index above 3. -/
  | channelRange (v : Byte)
  /-- A queue selector above 7. -/
  | queueRange (v : Byte)
  /-- `RB.PUSHD` on a transmit buffer (40_ring_buffer R136; log 18). -/
  | notReceiveQueue (v : Byte)
  /-- A pin index above 7. -/
  | pinRange (v : Byte)
  /-- `SCH.B` on a channel that is not 1, 2 or 3. -/
  | auxRange (v : Byte)
  /-- A fatal kind above 5. -/
  | kindRange (v : Byte)
  /-- A saved interrupt enable that is not 0 or 1. -/
  | bitRange (v : Byte)
  deriving DecidableEq, Repr

/-! ### Operand bytes -/

/-- A channel index operand, 2 bits (R90). -/
def Channel.ofByte? (v : Byte) : Option Channel :=
  match v.toNat with
  | 0 => some .ch0
  | 1 => some .ch1
  | 2 => some .ch2
  | 3 => some .ch3
  | _ => none

/-- The index of a channel, 0..3 (00_scope R8). -/
def Channel.index : Channel → Nat
  | .ch0 => 0
  | .ch1 => 1
  | .ch2 => 2
  | .ch3 => 3

/-- The operand byte of a channel. -/
def Channel.code (c : Channel) : Byte := BitVec.ofNat 8 c.index

/-- A queue selector operand, 3 bits `c ‖ dir`, `dir` 0 for `rx`, 1 for `tx` (R90). -/
def Queue.ofByte? (v : Byte) : Option Queue :=
  match v.toNat with
  | 0 => some (.rx .ch0)
  | 1 => some (.tx .ch0)
  | 2 => some (.rx .ch1)
  | 3 => some (.tx .ch1)
  | 4 => some (.rx .ch2)
  | 5 => some (.tx .ch2)
  | 6 => some (.rx .ch3)
  | 7 => some (.tx .ch3)
  | _ => none

/-- The bit of a direction. -/
def Dir.bit : Dir → Nat
  | .rx => 0
  | .tx => 1

/-- The operand byte of a queue selector. -/
def Queue.code (q : Queue) : Byte := BitVec.ofNat 8 (2 * q.chan.index + q.dir.bit)

/-- A pin index operand, 3 bits (R90). -/
def Pin.ofByte? (v : Byte) : Option Pin := if h : v.toNat < 8 then some ⟨v.toNat, h⟩ else none

/-- The operand byte of a pin index. -/
def Pin.code (i : Pin) : Byte := BitVec.ofNat 8 i.val

/-- A fatal kind operand, its number 0..5 (60_exceptions R271). -/
def FatalKind.ofByte? (v : Byte) : Option FatalKind :=
  match v.toNat with
  | 0 => some .lineTooShort
  | 1 => some .pinRange
  | 2 => some .badPort
  | 3 => some .emptyPayload
  | 4 => some .badAnalogPort
  | 5 => some .lineTooLong
  | _ => none

/-- The number of a fatal kind (60_exceptions R271). -/
def FatalKind.number : FatalKind → Nat
  | .lineTooShort => 0
  | .pinRange => 1
  | .badPort => 2
  | .emptyPayload => 3
  | .badAnalogPort => 4
  | .lineTooLong => 5

/-- The operand byte of a fatal kind. -/
def FatalKind.code (k : FatalKind) : Byte := BitVec.ofNat 8 k.number

/-- A one-bit operand (the saved `I`). -/
def bitOfByte? (v : Byte) : Option Bool :=
  match v.toNat with
  | 0 => some false
  | 1 => some true
  | _ => none

/-- The operand byte of a bit. -/
def bitCode (b : Bool) : Byte := if b then 1#8 else 0#8

/-! ### Operand shapes -/

/-- No operand. -/
def takeNone (code : Byte) (args : List Byte) (i : Instr) : Except DecodeError Instr :=
  match args with
  | [] => .ok i
  | _ => .error (.operandCount code)

/-- One operand, a channel. -/
def takeC (code : Byte) (args : List Byte) (mk : Channel → Instr) : Except DecodeError Instr :=
  match args with
  | [c] =>
    match Channel.ofByte? c with
    | some c => .ok (mk c)
    | none => .error (.channelRange c)
  | _ => .error (.operandCount code)

/-- A channel and a data byte. -/
def takeCB (code : Byte) (args : List Byte) (mk : Channel → Byte → Instr) : Except DecodeError Instr :=
  match args with
  | [c, b] =>
    match Channel.ofByte? c with
    | some c => .ok (mk c b)
    | none => .error (.channelRange c)
  | _ => .error (.operandCount code)

/-- One operand, a queue selector. -/
def takeQ (code : Byte) (args : List Byte) (mk : Queue → Instr) : Except DecodeError Instr :=
  match args with
  | [q] =>
    match Queue.ofByte? q with
    | some q => .ok (mk q)
    | none => .error (.queueRange q)
  | _ => .error (.operandCount code)

/-- A queue selector and a data byte. -/
def takeQB (code : Byte) (args : List Byte) (mk : Queue → Byte → Instr) : Except DecodeError Instr :=
  match args with
  | [q, b] =>
    match Queue.ofByte? q with
    | some q => .ok (mk q b)
    | none => .error (.queueRange q)
  | _ => .error (.operandCount code)

/-- A receive queue selector and a data byte: the operands of `RB.PUSHD` (40_ring_buffer R136). -/
def takeRxB (code : Byte) (args : List Byte) (mk : Queue → Byte → Instr) : Except DecodeError Instr :=
  match args with
  | [q, b] =>
    match Queue.ofByte? q with
    | some ⟨c, .rx⟩ => .ok (mk ⟨c, .rx⟩ b)
    | some ⟨_, .tx⟩ => .error (.notReceiveQueue q)
    | none => .error (.queueRange q)
  | _ => .error (.operandCount code)

/-- A port index and a pin index. Whether the port index is below `P` is the configuration's (93 U7). -/
def takePI (code : Byte) (args : List Byte) (mk : Nat → Pin → Instr) : Except DecodeError Instr :=
  match args with
  | [p, i] =>
    match Pin.ofByte? i with
    | some i => .ok (mk p.toNat i)
    | none => .error (.pinRange i)
  | _ => .error (.operandCount code)

/-- The auxiliary channel of `SCH.B`, 1..3 (93 U7: `k = 0` is refused). -/
def takeAux (code : Byte) (args : List Byte) (mk : Channel → Instr) : Except DecodeError Instr :=
  match args with
  | [k] =>
    match Channel.ofByte? k with
    | some .ch0 => .error (.auxRange k)
    | some k => .ok (mk k)
    | none => .error (.auxRange k)
  | _ => .error (.operandCount code)

/-- A fatal kind number. -/
def takeKind (code : Byte) (args : List Byte) (mk : FatalKind → Instr) : Except DecodeError Instr :=
  match args with
  | [k] =>
    match FatalKind.ofByte? k with
    | some k => .ok (mk k)
    | none => .error (.kindRange k)
  | _ => .error (.operandCount code)

/-- One bit. -/
def takeBit (code : Byte) (args : List Byte) (mk : Bool → Instr) : Except DecodeError Instr :=
  match args with
  | [v] =>
    match bitOfByte? v with
    | some v => .ok (mk v)
    | none => .error (.bitRange v)
  | _ => .error (.operandCount code)

/-! ### The two decoders -/

/-- The operation layer: the select codes of R91. Every other code is refused (93 U6). The operand `c = 0` that R91 fixes for code
0x40 (44_dispatcher R211) carries no byte, so `[0x40, 0x00]` is refused as `operandCount` (DESIGN CHOICE, log 2). -/
def decodeOp : List Byte → Except DecodeError Instr
  | [] => .error .empty
  | op :: args =>
    match op.toNat with
    | 0x00 => takeQB op args .rbPush
    | 0x01 => takeQ op args .rbPop
    | 0x02 => takeQ op args .rbEmpty
    | 0x03 => takeQ op args .rbFull
    | 0x04 => takeRxB op args .rbPushd
    | 0x10 => takeCB op args .chRxi
    | 0x11 => takeC op args .chTxi
    | 0x12 => takeCB op args .chTx
    | 0x13 => takeC op args .chDrain
    | 0x20 => takeC op args .lfAppend
    | 0x21 => takeC op args .lfReset
    | 0x30 => takeNone op args .pmPoll
    | 0x31 => takePI op args .pmWatch
    | 0x32 => takePI op args .pmUnwatch
    | 0x38 => takeNone op args .clkTick
    | 0x40 => takeNone op args .cdDispatch
    | 0x48 => takeNone op args .schA
    | 0x49 => takeAux op args .schB
    | 0x4A => takeNone op args .schC
    | 0x50 => takeNone op args .sysStart
    | 0x51 => takeKind op args .sysFatal
    | 0x52 => takeNone op args .sysCritEnter
    | 0x53 => takeBit op args .sysCritExit
    | 0x58 => takeCB op args .envRxbyte
    | 0x59 => takeC op args .envTxrdy
    | 0x5A => takeNone op args .envReset
    | _ => .error (.unknownCode op)

/-- The command layer: format selection and operation letter (R95, R97, R98, R99, R107). Every non-empty line is a
command; what is illegal in it is fatal when the command runs (R112; log 12). -/
def decodeLine : List Byte → Except DecodeError Instr
  | [] => .error .empty
  | op :: args =>
    match op.toNat with
    | 0x31 => .ok (.cmdFwd1 args)
    | 0x32 => .ok (.cmdFwd2 args)
    | 0x33 => .ok (.cmdFwd3 args)
    | 0x48 => .ok (.cmdH args)
    | 0x4C => .ok (.cmdL args)
    | 0x55 => .ok (.cmdU args)
    | 0x44 => .ok (.cmdD args)
    | 0x49 => .ok (.cmdI args)
    | 0x41 => .ok (.cmdA args)
    | 0x4D => .ok (.cmdM args)
    | 0x4E => .ok (.cmdN args)
    | 0x5A => if args = [] then .ok .cmdZ else .ok (.cmdUnk op args)
    | _ => .ok (.cmdUnk op args)

/-- The decoder: which instruction a request is, or why it is none. -/
def decode : Request → Except DecodeError Instr
  | .op bytes => decodeOp bytes
  | .line bytes => decodeLine bytes

/-! ### The encoder -/

/-- The request that asks for an instruction, from the same tables (R91, R97 to R99). -/
def encode : Instr → Request
  | .rbPush q b => .op [0x00#8, q.code, b]
  | .rbPop q => .op [0x01#8, q.code]
  | .rbEmpty q => .op [0x02#8, q.code]
  | .rbFull q => .op [0x03#8, q.code]
  | .rbPushd q b => .op [0x04#8, q.code, b]
  | .chRxi c b => .op [0x10#8, c.code, b]
  | .chTxi c => .op [0x11#8, c.code]
  | .chTx c b => .op [0x12#8, c.code, b]
  | .chDrain c => .op [0x13#8, c.code]
  | .lfAppend c => .op [0x20#8, c.code]
  | .lfReset c => .op [0x21#8, c.code]
  | .pmPoll => .op [0x30#8]
  | .pmWatch p i => .op [0x31#8, BitVec.ofNat 8 p, Pin.code i]
  | .pmUnwatch p i => .op [0x32#8, BitVec.ofNat 8 p, Pin.code i]
  | .clkTick => .op [0x38#8]
  | .cdDispatch => .op [0x40#8]
  | .schA => .op [0x48#8]
  | .schB k => .op [0x49#8, k.code]
  | .schC => .op [0x4A#8]
  | .sysStart => .op [0x50#8]
  | .sysFatal kind => .op [0x51#8, kind.code]
  | .sysCritEnter => .op [0x52#8]
  | .sysCritExit saved => .op [0x53#8, bitCode saved]
  | .envRxbyte c b => .op [0x58#8, c.code, b]
  | .envTxrdy c => .op [0x59#8, c.code]
  | .envReset => .op [0x5A#8]
  | .cmdZ => .line [0x5A#8]
  | .cmdFwd1 payload => .line (0x31#8 :: payload)
  | .cmdFwd2 payload => .line (0x32#8 :: payload)
  | .cmdFwd3 payload => .line (0x33#8 :: payload)
  | .cmdH args => .line (0x48#8 :: args)
  | .cmdL args => .line (0x4C#8 :: args)
  | .cmdU args => .line (0x55#8 :: args)
  | .cmdD args => .line (0x44#8 :: args)
  | .cmdI args => .line (0x49#8 :: args)
  | .cmdA args => .line (0x41#8 :: args)
  | .cmdM args => .line (0x4D#8 :: args)
  | .cmdN args => .line (0x4E#8 :: args)
  | .cmdUnk op args => .line (op :: args)

/-! ### The opcode table's words -/

/-- Byte `k` of the word `w`, zero above its `nbits` bits. -/
def tableByte (nbits w k : Nat) : Byte :=
  if 8 * k < nbits then BitVec.ofNat 8 ((w % 2 ^ nbits) / 2 ^ (8 * k)) else 0#8

/-- How many operand bytes the select code `op` carries beside it (R91; code 0x40 none, log 2). -/
def operandBytes (op : Byte) : Nat :=
  match op.toNat with
  | 0x00 | 0x04 | 0x10 | 0x12 | 0x31 | 0x32 | 0x58 => 2
  | 0x01 | 0x02 | 0x03 | 0x11 | 0x13 | 0x20 | 0x21 | 0x49 | 0x51 | 0x53 | 0x59 => 1
  | _ => 0

/-- The word as an operation request: its first byte is the code, operand bytes follow. -/
def tableOp (nbits w : Nat) : Request :=
  .op (tableByte nbits w 0 ::
    ([tableByte nbits w 1, tableByte nbits w 2].take (operandBytes (tableByte nbits w 0))))

/-- The word as a command line: three bytes, operation letter, port and pin (R96). -/
def tableLine (nbits w : Nat) : Request :=
  .line [tableByte nbits w 0, tableByte nbits w 1, tableByte nbits w 2]

/-- The request a word of the opcode table stands for. Five bytes are codes in both layers; a word that is an operation
of R91 is one, any other word is a command line (DESIGN CHOICE, log 3). -/
def tableRequest (nbits w : Nat) : Request :=
  match decode (tableOp nbits w) with
  | .ok _ => tableOp nbits w
  | .error _ => tableLine nbits w

/-- The instruction the decoder reads from a word of the opcode table. -/
def decodeTableWord (nbits w : Nat) : Option Instr :=
  match decode (tableRequest nbits w) with
  | .ok i => some i
  | .error _ => none

end Sys2Proof
end

