-- ==== Sys2Proof/Machine/State.lean ====
section
/-!
DEFINITION. The state of the block as plain data (10_state R20 to R46), the position of `MAIN` inside an operation
(20_memory R70), the environment's schedule, the reasons a step can stop, and the state after reset (10_state R46).
-/
namespace Sys2Proof.Machine

/-- A byte array (10_state R37): index and byte pairs, indices strictly rising. An index not listed has no value: nothing
has been written there since reset (20_memory R77, 93 U1; log 9). -/
abbrev Memory := List Host.Cell

/-- The canonical form: indices strictly rising. What an unlisted index reads as is no value, so no entry can equal it. -/
abbrev Memory.wf (m : Memory) : Prop := m.Pairwise (fun a b => a.1 < b.1)

/-- The twelve byte arrays (10_state R37). -/
inductive ArrayId where
  | ring (q : Queue)
  | line (c : Channel)
  deriving DecidableEq, Repr

/-- A ring buffer (10_state R21): backing storage, read index, write index. -/
structure Ring where
  store : Memory
  rd : Nat
  wr : Nat
  deriving DecidableEq, Repr

/-- A line buffer (10_state R25): storage, accumulated byte count, ready flag. -/
structure LineBuf where
  line : Memory
  len : Nat
  ready : Bool
  deriving DecidableEq, Repr

/-- The run state of `MAIN` (10_state R31). -/
inductive RunState where
  | running
  | resetWait
  | halted (kind : FatalKind)
  deriving DecidableEq, Repr

/-- `sched_phase` (10_state R32). -/
inductive Phase where
  | a | b1 | b2 | b3 | c
  deriving DecidableEq, Repr

/-- The driver actions (10_state R41), as `drv_log` records them (R45). -/
inductive DrvAction where
  | outputHigh (p : Nat) (i : Pin)
  | outputLow (p : Nat) (i : Pin)
  | inputPullup (p : Nat) (i : Pin)
  | inputNopull (p : Nat) (i : Pin)
  | readPin (p : Nat) (i : Pin)
  | readAnalog (p : Nat) (i : Pin)
  | sample (p : Nat)
  deriving DecidableEq, Repr

/-- The value an operation returns to its caller (30_encoding R91, column "result"; log 16). -/
inductive Ret where
  | none
  | bool (v : Bool)
  | byte (v : Option Byte)
  | saved (v : Bool)
  deriving DecidableEq, Repr

/-- A position of `MAIN`: the access or decision it makes next. The names follow the labelled lines of the spec's
pseudocode; values already read stand in the position (20_memory R70; log 6). -/
inductive Micro where
  /-- The first line of an instruction's pseudocode. -/
  | call (i : Instr)
  /-- `RB.EMPTY` s2, `rd` read as `r` (40_ring_buffer R132). -/
  | emptyWr (q : Queue) (r : Nat)
  /-- `RB.FULL` s2, `wr` read as `w` (R133). -/
  | fullRd (q : Queue) (w : Nat)
  /-- `RB.PUSH` s2 and the test (R134). -/
  | pushRd (q : Queue) (b : Byte) (w : Nat)
  /-- `RB.PUSH` s3. -/
  | pushStore (q : Queue) (b : Byte) (w : Nat)
  /-- `RB.PUSH` s4. -/
  | pushWr (q : Queue) (w : Nat)
  /-- `RB.POP` s2 and the test (R135). -/
  | popWr (q : Queue) (r : Nat)
  /-- `RB.POP` s3. -/
  | popStore (q : Queue) (r : Nat)
  /-- `RB.POP` s4, the byte read at s3. -/
  | popRd (q : Queue) (r : Nat) (b : Byte)
  /-- `CH.TX` t1, before a test of the full buffer (41_channel R154). -/
  | txWait (c : Channel) (b : Byte)
  /-- `CH.TX` t1, after the test. -/
  | txWaited (c : Channel) (b : Byte)
  /-- `CH.TX` t3. -/
  | txEnable (c : Channel)
  /-- `CH.TX` u1, after the test, then u2 and u3. -/
  | txMakeRoom (c : Channel) (b : Byte)
  /-- `CH.DRAIN` d1, before the test (R155). -/
  | drainLoop (c : Channel)
  /-- `CH.DRAIN` d1, after the test. -/
  | drainTest (c : Channel)
  /-- `CH.DRAIN` d2. -/
  | drainWait (c : Channel)
  /-- `CH.DRAIN` d4. -/
  | drainSend (c : Channel)
  /-- `LF.APPEND` a1 with the popped byte, to a6 (42_line_framer R172). -/
  | appendByte (c : Channel)
  /-- `PM.POLL` p1, p2 of port `p` (43_port_monitor R193). -/
  | pollPort (p : Nat)
  /-- `PM.POLL` p4. -/
  | notifyStamp
  /-- `PM.POLL` p5. -/
  | lastStore (p : Nat) (v : Byte)
  /-- `SCH.A` after the append (45_scheduler R251). -/
  | schADispatch
  /-- `SCH.B` after the append (R252). -/
  | schBForward (k : Channel)
  /-- The phase advance of the loop (R254). -/
  | advance (ph : Phase)
  /-- `SYS.FATAL` h3 (60_exceptions R274). -/
  | fatalArm
  /-- `SYS.FATAL` h4. -/
  | fatalHalt (kind : FatalKind)
  deriving DecidableEq, Repr

/-- One turn of the environment's schedule (log 5): an event of 10_state R40, the start of a handler (60_exceptions
R281), or a turn left to `MAIN`. -/
inductive Turn where
  /-- `MAIN` takes its next access. -/
  | main
  /-- `ENV.RXBYTE(c, b)` (41_channel R157). -/
  | rxByte (c : Channel) (b : Byte)
  /-- `ENV.TXRDY(c)` (R158). -/
  | txRdy (c : Channel)
  /-- Handler `TXI[c]` starts, if it may (60_exceptions R281). -/
  | txi (c : Channel)
  /-- `CLK.TICK` (43_port_monitor R197). -/
  | tick
  /-- The level `pin_in[p]` changes (10_state R40). -/
  | pin (p : Nat) (v : Byte)
  /-- `reset` (70_reset R310). -/
  | reset
  deriving DecidableEq, Repr

/-- The state. -/
structure State where
  /-- The open parameters. Nothing writes them (70_reset R312 (2), (3); log 1). -/
  cfg : Config
  /-- `rx[c]` (10_state R21). -/
  rx : Four Ring
  /-- `tx[c]` (R21). -/
  tx : Four Ring
  /-- `tx_irq_en[c]` (R24). -/
  txIrqEn : Four Bool
  /-- `lf[c]` (R25). -/
  lf : Four LineBuf
  /-- `mask[p]`, by port index (R27). -/
  mask : List Byte
  /-- `last[p]`, by port index (R27). -/
  last : List Byte
  /-- `last_notify` (R28). -/
  lastNotify : Byte
  /-- `last_poll` (R28). -/
  lastPoll : Byte
  /-- `ms_clock` (R29). -/
  msClock : Byte
  /-- `I`, the global interrupt enable (R30). -/
  ie : Bool
  /-- `run` (R31). -/
  run : RunState
  /-- `wdt_armed` (R31). -/
  wdtArmed : Bool
  /-- `sched_phase` (R32). -/
  schedPhase : Phase
  /-- `isr_active` (R38). -/
  isrActive : Bool
  /-- `tx_ready[c]`, owned by the environment (R38). -/
  txReady : Four Bool
  /-- `pin_in[p]`, owned by the environment (R40). -/
  pinIn : List Byte
  /-- Analog draws `adc(p, i)` the environment has decided, next one first (R40, R42; log 11). -/
  adcIn : List Word16
  /-- `wire_out[c]`, ghost, oldest first (R45). -/
  wireOut : Four (List Byte)
  /-- `drv_log`, ghost, in call order (R45). -/
  drvLog : List DrvAction
  /-- What `MAIN` has left to do of its operation, next access first (20_memory R70; log 6). -/
  main : List Micro
  /-- The last value returned (log 16). -/
  ret : Ret
  /-- `SYS.START` has not run since the last reset (70_reset R310, R311; log 4). -/
  startPending : Bool
  /-- Requests not yet fetched, oldest first (30_encoding R90, R92; log 2). -/
  requests : List Request
  /-- The environment's schedule, next turn first (log 5). -/
  env : List Turn
  /-- Numbers the free values (log 10, 11). -/
  draws : Nat
  deriving DecidableEq, Repr

/-- Why the machine stops with a fault. Both are accesses the rules never make (20_memory R63, R77); stopping is safe. -/
inductive Fault where
  /-- Raised by a storage access whose index is not below the array's size (20_memory R60, R63). Safe. -/
  | outOfArray (a : ArrayId) (i : Nat)
  /-- Raised by a read of a slot that nothing has written since reset (20_memory R77; log 9). Safe. -/
  | unwrittenRead (a : ArrayId) (i : Nat)
  deriving DecidableEq, Repr

/-- Why a request has no meaning. -/
inductive Refusal where
  /-- Raised by `exec` for an instruction the model gives no meaning yet. Safe. -/
  | notModelled (mnemonic : String)
  /-- Raised by `step` on a request the decoder rejects (93 U6, U7). Safe. -/
  | badRequest (e : DecodeError)
  /-- Raised by `CD.DISPATCH` while `lf[0].ready = 0`: reading the line then has no meaning and "a model refuses it"
  (42_line_framer R175, 93 U5). Safe. -/
  | lineNotReady
  /-- Raised by `PM.WATCH`, `PM.UNWATCH` with a port index not below `P` (93 U7: refuse). Safe. -/
  | portOutOfRange (p : Nat)
  /-- Raised by a write of the transmit register while `tx_ready[c] = 0` (41_channel R151, 93 U4: refuse). No rule does
  so. Safe. -/
  | transmitterBusy (c : Channel)
  deriving DecidableEq, Repr

/-- An empty ring buffer whose storage nothing has written (10_state R46). -/
abbrev Ring.reset : Ring := { store := [], rd := 0, wr := 0 }

/-- An idle line buffer (10_state R46). -/
abbrev LineBuf.reset : LineBuf := { line := [], len := 0, ready := false }

/-- The state after reset under the parameters `cfg`, the environment's levels given: every value of 10_state R46; the
position of `MAIN` is that of 70_reset R310, before `SYS.START`. -/
def State.initial (cfg : Config) (txReady : Four Bool) (pinIn : List Byte) : State where
  cfg := cfg
  rx := .all .reset
  tx := .all .reset
  txIrqEn := .all false
  lf := .all .reset
  mask := List.replicate cfg.numPorts 0#8
  last := cfg.last0
  lastNotify := 0#8
  lastPoll := 0#8
  msClock := 0#8
  ie := false
  run := .running
  wdtArmed := false
  schedPhase := .a
  isrActive := false
  txReady := txReady
  pinIn := pinIn
  adcIn := []
  wireOut := .all []
  drvLog := []
  main := []
  ret := .none
  startPending := true
  requests := []
  env := []
  draws := 0

/-- The machine right after reset: 10_state R46 under configuration `T0` (log 1), transmitters not ready and pins low
(DESIGN CHOICE, log 10). -/
def State.reset : State :=
  State.initial Config.t0 (.all false) (List.replicate Config.t0.numPorts 0#8)

end Sys2Proof.Machine
end

