-- ==== Sys2Proof/Machine/Ops.lean ====
section
/-!
DEFINITION. The shared operations over the byte arrays, the index registers, the transmit register, the position of
`MAIN`, the fatal error (the block's one synchronous exception) and interrupt entry and return.
-/
namespace Sys2Proof.Machine

/-- What an operation answers. -/
abbrev Res := Host.Outcome State Fault Refusal

/-- First `r`, then `f` on the state it answers; a fault or a refusal stands. -/
def andThen (r : Res) (f : State → Res) : Res :=
  match r with
  | .next s => f s
  | .fault e => .fault e
  | .refused e => .refused e

/-! ### Byte arrays (20_memory R60 to R64) -/

/-- The byte at an index, if one has been written there. -/
def Memory.read : Memory → Nat → Option Byte
  | [], _ => none
  | (j, b) :: rest, i => if j = i then some b else Memory.read rest i

/-- The array with one byte written; the list stays strictly rising. -/
def Memory.write : Memory → Nat → Byte → Memory
  | [], i, b => [(i, b)]
  | (j, x) :: rest, i, b =>
    if i < j then (i, b) :: (j, x) :: rest
    else if i = j then (i, b) :: rest
    else (j, x) :: Memory.write rest i b

/-- `MemRead(S, i, 1)` of an array of `size` bytes (00_scope R13): an index outside the array and an index nothing has
written fault. -/
def memRead (a : ArrayId) (size : Nat) (m : Memory) (i : Nat) : Except Fault Byte :=
  if i < size then
    match Memory.read m i with
    | some b => .ok b
    | none => .error (.unwrittenRead a i)
  else .error (.outOfArray a i)

/-- `MemWrite(S, i, 1, v)` of an array of `size` bytes (00_scope R13). -/
def memWrite (a : ArrayId) (size : Nat) (m : Memory) (i : Nat) (b : Byte) : Except Fault Memory :=
  if i < size then .ok (Memory.write m i b) else .error (.outOfArray a i)

/-! ### Ring buffers -/

/-- Ring buffer `q` (10_state R21). -/
def State.ring (s : State) (q : Queue) : Ring :=
  match q.dir with
  | .rx => s.rx.get q.chan
  | .tx => s.tx.get q.chan

/-- The state with ring buffer `q` replaced. -/
def State.setRing (s : State) (q : Queue) (r : Ring) : State :=
  { s with
    rx := match q.dir with
      | .rx => s.rx.set q.chan r
      | .tx => s.rx
    tx := match q.dir with
      | .rx => s.tx
      | .tx => s.tx.set q.chan r }

/-- The capacity `N` of ring buffer `q` (00_scope R9). -/
abbrev State.capacity (s : State) (q : Queue) : Nat := s.cfg.capacity q

/-- `next(i) = (i + 1) mod N` (40_ring_buffer R131). -/
def nextIndex (n i : Nat) : Nat := (i + 1) % n

/-- Read `q.store[i]`. -/
def readSlot (q : Queue) (i : Nat) (s : State) : Except Fault Byte :=
  memRead (.ring q) (s.capacity q) (s.ring q).store i

/-- Write `q.store[i]`. -/
def writeSlot (q : Queue) (i : Nat) (b : Byte) (s : State) : Res :=
  match memWrite (.ring q) (s.capacity q) (s.ring q).store i b with
  | .ok m => .next (s.setRing q { s.ring q with store := m })
  | .error f => .fault f

/-- Write `q.rd`. -/
def State.setRd (s : State) (q : Queue) (v : Nat) : State := s.setRing q { s.ring q with rd := v }

/-- Write `q.wr`. -/
def State.setWr (s : State) (q : Queue) (v : Nat) : State := s.setRing q { s.ring q with wr := v }

/-! ### Line buffers -/

/-- The state with line buffer `lf[c]` replaced. -/
def State.setLf (s : State) (c : Channel) (l : LineBuf) : State := { s with lf := s.lf.set c l }

/-- `lf[c].line[i .. i + n - 1]`. -/
def readLine (c : Channel) (s : State) : Nat → Nat → Except Fault (List Byte)
  | _, 0 => .ok []
  | i, n + 1 =>
    match memRead (.line c) s.cfg.lineCap (s.lf.get c).line i with
    | .error f => .error f
    | .ok b =>
      match readLine c s (i + 1) n with
      | .error f => .error f
      | .ok bs => .ok (b :: bs)

/-- `LF.LINE(c)`, the bytes `lf[c].line[0 .. len - 1]` (42_line_framer R175). -/
def lineOf (c : Channel) (s : State) : Except Fault (List Byte) := readLine c s 0 (s.lf.get c).len

/-! ### Flags, transmit register, watchdog, driver log -/

/-- Write `tx_irq_en[c]` (10_state R24). -/
def State.setIrqEn (s : State) (c : Channel) (v : Bool) : State := { s with txIrqEn := s.txIrqEn.set c v }

/-- `wire(c, b)`, a write of the transmit register: the byte is on the wire and the transmitter is no longer ready
(41_channel R151). With `tx_ready[c] = 0` the transition is not enabled and is refused (93 U4). -/
def wire (c : Channel) (b : Byte) (s : State) : Res :=
  if s.txReady.get c then
    .next { s with wireOut := s.wireOut.set c (s.wireOut.get c ++ [b]), txReady := s.txReady.set c false }
  else .refused (.transmitterBusy c)

/-- `wdt_arm` (10_state R44; log 25). -/
def State.wdtArm (s : State) : State := { s with wdtArmed := true }

/-- A driver action, recorded (10_state R41, R45). -/
def State.logDrv (s : State) (a : DrvAction) : State := { s with drvLog := s.drvLog ++ [a] }

/-- `return v` (00_scope R13; log 16). -/
def State.withRet (s : State) (v : Ret) : State := { s with ret := v }

/-! ### The position of MAIN -/

/-- What `MAIN` has left to do is `ms`. -/
def State.setMain (s : State) (ms : List Micro) : State := { s with main := ms }

/-- `MAIN` does `ms` next, then what it had left. -/
def State.push (s : State) (ms : List Micro) : State := s.setMain (ms ++ s.main)

/-- What the environment's schedule has left. -/
def State.setEnv (s : State) (ts : List Turn) : State := { s with env := ts }

/-- `emit(c, b)` is `CH.TX(c, b)` (30_encoding R114). -/
abbrev emit (c : Channel) (b : Byte) : Micro := .call (.chTx c b)

/-- `emit_all(c, bytes)` (30_encoding R114). -/
def emitAll (c : Channel) (bs : List Byte) : List Micro := bs.map (emit c)

/-! ### Fatal errors (60_exceptions R270 to R277) -/

/-- `raise Fatal(kind)`: `SYS.FATAL(kind)` in place of the rest of the current operation and of every caller
(60_exceptions R274). -/
def raiseFatal (kind : FatalKind) (s : State) : State := s.setMain [.call (.sysFatal kind)]

/-- `hexdigit(d)` (00_scope R14). -/
def hexDigit (d : Nat) : Byte := if d < 10 then BitVec.ofNat 8 (0x30 + d) else BitVec.ofNat 8 (0x41 + (d - 10))

/-- `hex16(v)`: four uppercase hex digits, high byte first (00_scope R14, 20_memory R62). -/
def hex16 (v : Word16) : List Byte :=
  [hexDigit (v.toNat / 4096 % 16), hexDigit (v.toNat / 256 % 16), hexDigit (v.toNat / 16 % 16), hexDigit (v.toNat % 16)]

/-- The bytes of the diagnostic line (30_encoding R111). -/
def diagnostic (cfg : Config) (kind : FatalKind) : List Byte :=
  errorText ++ hex16 (cfg.fatalCode.get kind) ++ [Ascii.space] ++ cfg.fatalMsg.get kind ++ crlf

/-- TAKING THE EXCEPTION, `SYS.FATAL(kind)` (60_exceptions R274): h1 clears `I`; nothing is saved; what `MAIN` has left is
h2 (the diagnostic on the control channel), h3 and h4, and nothing else, since there is no return (R277). -/
def enterFatal (kind : FatalKind) (s : State) : State :=
  State.setMain { s with ie := false } (emitAll .ch0 (diagnostic s.cfg kind) ++ [.fatalArm, .fatalHalt kind])

/-! ### Interrupts and critical sections (60_exceptions R280 to R283, R297, R298) -/

/-- A handler may start: `I = 1` and `isr_active = 0` (60_exceptions R281). -/
def State.interruptible (s : State) : Bool := s.ie && !s.isrActive

/-- Interrupt entry and return: `isr_active` is 1 while the handler runs; nothing is saved or restored (R282). -/
def asHandler (body : State → Res) (s : State) : Res :=
  andThen (body { s with isrActive := true }) fun t => .next { t with isrActive := false }

/-- `SYS.CRIT_ENTER`: the saved `I` is the result, `I` is cleared (R297). -/
def critEnter (s : State) : State := { s with ie := false, ret := .saved s.ie }

/-- `SYS.CRIT_EXIT(saved)` (R298). -/
def critExit (saved : Bool) (s : State) : State := { s with ie := saved }

/-! ### Reset (70_reset R310) -/

/-- The reset event: every state element takes the value of 10_state R46. What the environment owns is unspecified
afterwards and drawn as free values (log 10); the parameters, the requests, the schedule and the draws already decided
are not state of the block (log 20). -/
def resetEvent (s : State) : State :=
  { State.initial s.cfg
      ⟨Config.freeTxReady s.draws 0, Config.freeTxReady s.draws 1, Config.freeTxReady s.draws 2,
        Config.freeTxReady s.draws 3⟩
      ((List.range s.cfg.numPorts).map (Config.freePinIn s.draws)) with
    adcIn := s.adcIn
    requests := s.requests
    env := s.env
    draws := s.draws + 1 }

/-- One analog sample (10_state R42): the environment's next draw, or a free value where it has decided none (log 11). -/
def drawAdc (s : State) : Word16 × State :=
  match s.adcIn with
  | v :: rest => (v, { s with adcIn := rest })
  | [] => (Config.freeAdc s.draws, { s with draws := s.draws + 1 })

end Sys2Proof.Machine
end

