-- ==== Sys2Proof/Machine/Operands.lean ====
section
/-!
DEFINITION. Operand assembly of the command lines (30_encoding R96, R100 to R102) and the lines the block sends
(R104 to R109).
-/
namespace Sys2Proof.Machine

/-- The position of a byte in a list of letters. -/
def indexIn : List Byte → Byte → Option Nat
  | [], _ => none
  | x :: rest, b => if x = b then some 0 else (indexIn rest b).map (· + 1)

/-- `port_index(letter)`: `None` for a byte that is not a letter of `PORTS` (30_encoding R102). -/
def portIndex (cfg : Config) (letter : Byte) : Option Nat := indexIn cfg.ports letter

/-- `PORTS[p]` (30_encoding R102). -/
def portLetter (cfg : Config) (p : Nat) : Byte := cfg.ports.getD p 0#8

/-- The pin index of a pin digit, `0x30 .. 0x37` only (30_encoding R100). -/
def pinIndex (digit : Byte) : Option Pin :=
  if h : 0x30 ≤ digit.toNat ∧ digit.toNat ≤ 0x37 then some ⟨digit.toNat - 0x30, by omega⟩ else none

/-- The pin digit of a pin index, `0x30 + i` (30_encoding R108). -/
def pinDigit (i : Pin) : Byte := BitVec.ofNat 8 (0x30 + i.val)

/-- The pin bit mask `1 << i` (30_encoding R100). -/
def pinMask (i : Pin) : Byte := 1#8 <<< i.val

/-- The channel digit `0x30 + k` (30_encoding R109). -/
def channelDigit (k : Channel) : Byte := BitVec.ofNat 8 (0x30 + k.index)

/-- The operands of a `G3` line, from its bytes after the first: at least 3 bytes in all, then the pin digit in range
(44_dispatcher R211 g1, g2). Port letter, pin digit, pin index; bytes after the third are ignored (30_encoding R96). -/
def g3Operands : List Byte → Except FatalKind (Byte × Byte × Pin)
  | port :: pin :: _ =>
    match pinIndex pin with
    | some i => .ok (port, pin, i)
    | none => .error .pinRange
  | _ => .error .lineTooShort

/-- The response to a `G3` command without a value (30_encoding R104). -/
def g3Response (op port pin : Byte) : List Byte := [Ascii.gt, op, port, pin] ++ crlf

/-- The response to `I` and `A`, with the value in four hex digits (30_encoding R104). -/
def g3ValueResponse (op port pin : Byte) (v : Word16) : List Byte := [Ascii.gt, op, port, pin] ++ hex16 v ++ crlf

/-- The echo of a `FWD` command on the control channel (30_encoding R105). -/
def forwardEcho (line : List Byte) : List Byte := [Ascii.gt] ++ line ++ crlf

/-- What a `FWD` command sends on the auxiliary channel (30_encoding R106). -/
def forwardPayload (payload : List Byte) : List Byte := payload ++ crlf

/-- A notification (30_encoding R108): `H` if the new bit is set, else `L`. -/
def notification (letter : Byte) (v : Byte) (i : Pin) : List Byte :=
  [Ascii.bang, if v.getLsbD i.val then 0x48#8 else 0x4C#8, letter, pinDigit i] ++ crlf

/-- An auxiliary line forwarded to the control channel (30_encoding R109). -/
def auxForward (k : Channel) (line : List Byte) : List Byte := [channelDigit k] ++ line ++ crlf

end Sys2Proof.Machine
end

