-- ==== Sys2Proof/Machine/Flags.lean ====
section
/-!
DEFINITION. The derived predicates, which the spec computes and does not store (10_state R34), the byte classes of the
framer (30_encoding R93), the tests of the monitor (43_port_monitor R193, R196), and the interrupt conditions.
-/
namespace Sys2Proof.Machine

/-- `is_empty(q)`: `rd = wr` (40_ring_buffer R132). -/
def State.isEmpty (s : State) (q : Queue) : Bool := (s.ring q).rd == (s.ring q).wr

/-- `is_full(q)`: `next(wr) = rd` (40_ring_buffer R133). -/
def State.isFull (s : State) (q : Queue) : Bool := nextIndex (s.capacity q) (s.ring q).wr == (s.ring q).rd

/-- The fill count `(wr - rd) mod n` on mathematical integers, reduced (00_scope R12, 20_memory R78 (b)). -/
def ringCount (n rd wr : Nat) : Nat := (((wr : Int) - (rd : Int)) % (n : Int)).toNat

/-- `RB.COUNT(q)` (40_ring_buffer R137). -/
def State.count (s : State) (q : Queue) : Nat := ringCount (s.capacity q) (s.ring q).rd (s.ring q).wr

/-- `count` of a ring buffer is 0 exactly when it is empty; `RB.COUNT` bytes from `rd` on, oldest first, as the storage
holds them (10_state R22). -/
def State.queued (s : State) (q : Queue) : List (Option Byte) :=
  (List.range (s.count q)).map fun k => Memory.read (s.ring q).store (((s.ring q).rd + k) % s.capacity q)

/-- Class `TERM` of the framer: CR or LF (30_encoding R93). -/
def isTerm (b : Byte) : Bool := b == Ascii.cr || b == Ascii.lf

/-- `poll_due(now) = ((now - last_poll) mod 256) >= 20` (43_port_monitor R196). -/
def pollDue (now lastPoll : Byte) : Bool := pollTicks ≤ (now - lastPoll).toNat

/-- `chg = (v XOR last) AND mask` (43_port_monitor R193). -/
def changed (v last mask : Byte) : Byte := (v ^^^ last) &&& mask

/-- The transmit-ready interrupt of channel `c` is pending and enabled (60_exceptions R281, 10_state R38). -/
def State.txiPending (s : State) (c : Channel) : Bool := s.txIrqEn.get c && s.txReady.get c

/-- `mask[p]` (10_state R27). -/
def State.maskOf (s : State) (p : Nat) : Byte := s.mask.getD p 0#8

/-- `last[p]` (10_state R27). -/
def State.lastOf (s : State) (p : Nat) : Byte := s.last.getD p 0#8

/-- `drv_sample(p)` returns `pin_in[p]` (10_state R42). -/
def State.pinsOf (s : State) (p : Nat) : Byte := s.pinIn.getD p 0#8

/-- `drv_read_pin(p, i)` returns `zext_16(pin_in[p] AND (1 << i))` (10_state R42). -/
def State.readPin (s : State) (p : Nat) (i : Pin) : Word16 := (s.pinsOf p &&& pinMask i).setWidth 16

end Sys2Proof.Machine
end

