-- ==== Sys2Proof/Machine/Handlers.lean ====
section
/-!
DEFINITION. The interrupt layer and the environment's events. A handler runs from entry to exit with no other access in
between (60_exceptions R282), so its ring-buffer operations are single functions of the state. An event that is not
enabled changes nothing (95_test_vectors CH-11, CH-12; log 5, 17).
-/
namespace Sys2Proof.Machine

/-! ### Ring-buffer operations inside a handler -/

/-- `RB.PUSH` uninterrupted (40_ring_buffer R134): a full buffer answers false and changes nothing. -/
def pushAtomic (q : Queue) (b : Byte) (s : State) : Res :=
  if s.isFull q then .next (s.withRet (.bool false))
  else
    andThen (writeSlot q (s.ring q).wr b s) fun t =>
      .next ((t.setWr q (nextIndex (s.capacity q) (s.ring q).wr)).withRet (.bool true))

/-- `RB.POP` uninterrupted (40_ring_buffer R135): the byte, if one is queued, and the state after. -/
def popAtomic (q : Queue) (s : State) : Except Fault (Option Byte × State) :=
  if s.isEmpty q then .ok (none, s)
  else
    match readSlot q (s.ring q).rd s with
    | .ok b => .ok (some b, s.setRd q (nextIndex (s.capacity q) (s.ring q).rd))
    | .error f => .error f

/-- `RB.PUSHD`, the drop-oldest push (40_ring_buffer R136): when full, `rd` advances first; the byte is stored at the `wr`
read at s1. -/
def pushDropOldest (q : Queue) (b : Byte) (s : State) : Res :=
  let n := s.capacity q
  let w := (s.ring q).wr
  let s1 := if s.isFull q then s.setRd q (nextIndex n (s.ring q).rd) else s
  andThen (writeSlot q w b s1) fun t => .next (t.setWr q (nextIndex n w))

/-! ### The handlers -/

/-- Handler `RXI[c]`, `CH.RXI(c, b)`: `RB.PUSHD(rx[c], b)` (41_channel R152), if a handler may start (60_exceptions R281). -/
def rxiHandler (c : Channel) (b : Byte) (s : State) : Res :=
  if s.interruptible then asHandler (pushDropOldest (.rx c) b) s else .next s

/-- The body of `CH.TXI(c)` (41_channel R153): one byte to the wire, or the interrupt disabled. -/
def txiBody (c : Channel) (s : State) : Res :=
  match popAtomic (.tx c) s with
  | .ok (some x, t) => wire c x t
  | .ok (none, t) => .next (t.setIrqEn c false)
  | .error f => .fault f

/-- Handler `TXI[c]`: it may start exactly when `I = 1`, `isr_active = 0`, `tx_irq_en[c] = 1` and `tx_ready[c] = 1`
(60_exceptions R281). -/
def txiHandler (c : Channel) (s : State) : Res :=
  if s.interruptible && s.txiPending c then asHandler (txiBody c) s else .next s

/-- Handler `TMR`, `CLK.TICK`: `ms_clock <- (ms_clock + 1) mod 256` (43_port_monitor R197). -/
def tickHandler (s : State) : Res :=
  if s.interruptible then asHandler (fun t => .next { t with msClock := t.msClock + 1#8 }) s else .next s

/-! ### The environment -/

/-- `ENV.RXBYTE(c, b)`: handler `RXI[c]` runs `CH.RXI(c, b)` to completion; not enabled while `I = 0` (41_channel R157). -/
def rxByteEvent (c : Channel) (b : Byte) (s : State) : Res := rxiHandler c b s

/-- `ENV.TXRDY(c)`: `tx_ready[c] <- 1`, enabled when it is 0 (41_channel R158). -/
def txRdyEvent (c : Channel) (s : State) : State :=
  if s.txReady.get c then s else { s with txReady := s.txReady.set c true }

/-- One turn of the schedule. -/
def deliver (t : Turn) (s : State) : Res :=
  match t with
  | .main => .next s
  | .rxByte c b => rxByteEvent c b s
  | .txRdy c => .next (txRdyEvent c s)
  | .txi c => txiHandler c s
  | .tick => tickHandler s
  | .pin p v => .next { s with pinIn := s.pinIn.set p v }
  | .reset => .next (resetEvent s)

end Sys2Proof.Machine
end

