-- ==== Sys2Proof/Machine/MainRing.lean ====
section
/-!
DEFINITION. The ring-buffer operations as `MAIN` performs them, one access per position, in the order of 40_ring_buffer
R132 to R135 (20_memory R70 (d), R71). The state a position is given no longer holds that position in `main`.
-/
namespace Sys2Proof.Machine

/-- `RB.EMPTY` s1: read `rd` (R132). -/
def startRbEmpty (q : Queue) (s : State) : Res := .next (s.push [.emptyWr q (s.ring q).rd])

/-- `RB.EMPTY` s2: read `wr`; the result is `r = w`. -/
def atEmptyWr (q : Queue) (r : Nat) (s : State) : Res := .next (s.withRet (.bool (r == (s.ring q).wr)))

/-- `RB.FULL` s1: read `wr` (R133). -/
def startRbFull (q : Queue) (s : State) : Res := .next (s.push [.fullRd q (s.ring q).wr])

/-- `RB.FULL` s2: read `rd`; the result is `next(w) = r`. -/
def atFullRd (q : Queue) (w : Nat) (s : State) : Res :=
  .next (s.withRet (.bool (nextIndex (s.capacity q) w == (s.ring q).rd)))

/-- `RB.PUSH` s1: read `wr` (R134). -/
def startRbPush (q : Queue) (b : Byte) (s : State) : Res := .next (s.push [.pushRd q b (s.ring q).wr])

/-- `RB.PUSH` s2: read `rd`; a full buffer answers false and changes nothing. -/
def atPushRd (q : Queue) (b : Byte) (w : Nat) (s : State) : Res :=
  if nextIndex (s.capacity q) w = (s.ring q).rd then .next (s.withRet (.bool false))
  else .next (s.push [.pushStore q b w])

/-- `RB.PUSH` s3: write the byte. -/
def atPushStore (q : Queue) (b : Byte) (w : Nat) (s : State) : Res :=
  andThen (writeSlot q w b s) fun t => .next (t.push [.pushWr q w])

/-- `RB.PUSH` s4: the index update is the last visible effect. -/
def atPushWr (q : Queue) (w : Nat) (s : State) : Res :=
  .next ((s.setWr q (nextIndex (s.capacity q) w)).withRet (.bool true))

/-- `RB.POP` s1: read `rd` (R135). -/
def startRbPop (q : Queue) (s : State) : Res := .next (s.push [.popWr q (s.ring q).rd])

/-- `RB.POP` s2: read `wr`; an empty buffer answers `None` and changes nothing. -/
def atPopWr (q : Queue) (r : Nat) (s : State) : Res :=
  if r = (s.ring q).wr then .next (s.withRet (.byte none)) else .next (s.push [.popStore q r])

/-- `RB.POP` s3: read the byte. -/
def atPopStore (q : Queue) (r : Nat) (s : State) : Res :=
  match readSlot q r s with
  | .ok b => .next (s.push [.popRd q r b])
  | .error f => .fault f

/-- `RB.POP` s4: write `next` of the `rd` read at s1 (not of a fresh read, 70_reset R321). -/
def atPopRd (q : Queue) (r : Nat) (b : Byte) (s : State) : Res :=
  .next ((s.setRd q (nextIndex (s.capacity q) r)).withRet (.byte (some b)))

end Sys2Proof.Machine
end

