-- ==== Sys2Proof/Machine/MainChannel.lean ====
section
/-!
DEFINITION. `CH.TX` and `CH.DRAIN` as `MAIN` performs them (41_channel R154, R155).
-/
namespace Sys2Proof.Machine

/-- `CH.TX` t0: read `I` once; the queued path while it is 1, the synchronous path while it is 0 (R154). -/
def startChTx (c : Channel) (b : Byte) (s : State) : Res :=
  if s.ie then .next (s.push [.txWait c b])
  else .next (s.push [.call (.rbFull (.tx c)), .txMakeRoom c b])

/-- `CH.TX` t1: test `RB.FULL(tx[c])`. -/
def atTxWait (c : Channel) (b : Byte) (s : State) : Res :=
  .next (s.push [.call (.rbFull (.tx c)), .txWaited c b])

/-- `CH.TX` t1: while the buffer is full, test again; then t2, t3. -/
def atTxWaited (c : Channel) (b : Byte) (s : State) : Res :=
  if s.ret = .bool true then .next (s.push [.txWait c b])
  else .next (s.push [.call (.rbPush (.tx c) b), .txEnable c])

/-- `CH.TX` t3: enable the transmit interrupt. -/
def atTxEnable (c : Channel) (s : State) : Res := .next (s.setIrqEn c true)

/-- `CH.TX` u1: a full buffer is drained first; u2: push; u3: drain. -/
def atTxMakeRoom (c : Channel) (b : Byte) (s : State) : Res :=
  if s.ret = .bool true then
    .next (s.push [.call (.chDrain c), .call (.rbPush (.tx c) b), .call (.chDrain c)])
  else .next (s.push [.call (.rbPush (.tx c) b), .call (.chDrain c)])

/-- `CH.DRAIN` d0: `SYS.CRIT_ENTER`; then d1 and, at the end, d5 with the saved `I` (R155). -/
def startChDrain (c : Channel) (s : State) : Res :=
  .next ((critEnter s).push [.drainLoop c, .call (.sysCritExit s.ie)])

/-- `CH.DRAIN` d1: test `RB.EMPTY(tx[c])`. -/
def atDrainLoop (c : Channel) (s : State) : Res := .next (s.push [.call (.rbEmpty (.tx c)), .drainTest c])

/-- `CH.DRAIN` d1: an empty buffer ends the loop. -/
def atDrainTest (c : Channel) (s : State) : Res :=
  if s.ret = .bool true then .next s else .next (s.push [.drainWait c])

/-- `CH.DRAIN` d2: wait for `tx_ready[c] = 1`; then d3, d4. -/
def atDrainWait (c : Channel) (s : State) : Res :=
  if s.txReady.get c then .next (s.push [.call (.rbPop (.tx c)), .drainSend c])
  else .next (s.push [.drainWait c])

/-- `CH.DRAIN` d4: the popped byte to the wire, and round again. -/
def atDrainSend (c : Channel) (s : State) : Res :=
  match s.ret with
  | .byte (some x) => andThen (wire c x s) fun t => .next (t.push [.drainLoop c])
  | _ => .next (s.push [.drainLoop c])

end Sys2Proof.Machine
end

