-- ==== Sys2Proof/Machine/MainFramer.lean ====
section
/-!
DEFINITION. `LF.APPEND` and `LF.RESET` (42_line_framer R171 to R174).
-/
namespace Sys2Proof.Machine

/-- `LF.APPEND` a0, a1: with `ready = 0` pop one byte of `rx[c]`; with `ready = 1` nothing is popped (R172). -/
def startLfAppend (c : Channel) (s : State) : Res :=
  if (s.lf.get c).ready then .next s
  else .next (s.push [.call (.rbPop (.rx c)), .appendByte c])

/-- a4, a5: store a content byte at `len` and count it; a6: reaching `L` is fatal, the byte stored and counted (R174). -/
def storeContent (c : Channel) (b : Byte) (s : State) : Res :=
  match memWrite (.line c) s.cfg.lineCap (s.lf.get c).line (s.lf.get c).len b with
  | .error f => .fault f
  | .ok m =>
    let t := s.setLf c { s.lf.get c with line := m, len := (s.lf.get c).len + 1 }
    if (s.lf.get c).len + 1 = s.cfg.lineCap then .next (raiseFatal .lineTooLong t)
    else .next (t.push [.call (.lfAppend c)])

/-- `LF.APPEND` a1 with the result of the pop, to a6 (R171, R172). -/
def atAppendByte (c : Channel) (s : State) : Res :=
  match s.ret with
  | .byte (some b) =>
    if isTerm b then
      if (s.lf.get c).len = 0 then .next (s.push [.call (.lfAppend c)])
      else .next (s.setLf c { s.lf.get c with ready := true })
    else if b = Ascii.nul ∧ (s.lf.get c).len = 0 then .next (s.push [.call (.lfAppend c)])
    else storeContent c b s
  | _ => .next s

/-- `LF.RESET`: `len <- 0`, `ready <- 0`; the storage is not cleared (R173). -/
def startLfReset (c : Channel) (s : State) : Res :=
  .next (s.setLf c { s.lf.get c with len := 0, ready := false })

end Sys2Proof.Machine
end

