-- ==== Sys2Proof/Machine/MainMonitor.lean ====
section
/-!
DEFINITION. `PM.POLL`, `PM.WATCH`, `PM.UNWATCH` (43_port_monitor R191 to R193).
-/
namespace Sys2Proof.Machine

/-- `mask[p] <- mask[p] OR (1 << i)` (R191). -/
def watchPin (p : Nat) (i : Pin) (s : State) : State :=
  { s with mask := s.mask.set p (s.maskOf p ||| pinMask i) }

/-- `mask[p] <- mask[p] AND NOT (1 << i)` (R192). -/
def unwatchPin (p : Nat) (i : Pin) (s : State) : State :=
  { s with mask := s.mask.set p (s.maskOf p &&& ~~~ pinMask i) }

/-- `PM.WATCH(p, i)`; a port index not below `P` is refused (93 U7). -/
def startPmWatch (p : Nat) (i : Pin) (s : State) : Res :=
  if p < s.cfg.numPorts then .next (watchPin p i s) else .refused (.portOutOfRange p)

/-- `PM.UNWATCH(p, i)`. -/
def startPmUnwatch (p : Nat) (i : Pin) (s : State) : Res :=
  if p < s.cfg.numPorts then .next (unwatchPin p i s) else .refused (.portOutOfRange p)

/-- `PM.POLL`: the ports in the order of `PORTS` (R193). -/
def startPmPoll (s : State) : Res := .next (s.push [.pollPort 0])

/-- p3, p4 of one pin: the notification on the control channel, then the time stamp. -/
def notify (letter v : Byte) (i : Pin) : List Micro :=
  emitAll .ch0 (notification letter v i) ++ [.notifyStamp]

/-- p3, p4 of every changed pin of a port, in ascending order. -/
def notifyChanged (letter v chg : Byte) : List Micro :=
  (List.finRange 8).flatMap fun i => if chg.getLsbD i.val then notify letter v i else []

/-- `PM.POLL` p1: sample port `p` (a driver action, log 13); p2: what changed; then p3 to p5, then the next port. -/
def atPollPort (p : Nat) (s : State) : Res :=
  if p < s.cfg.numPorts then
    let v := s.pinsOf p
    .next ((s.logDrv (.sample p)).push
      (notifyChanged (portLetter s.cfg p) v (changed v (s.lastOf p) (s.maskOf p)) ++
        [.lastStore p v, .pollPort (p + 1)]))
  else .next s

/-- `PM.POLL` p4: `last_notify <- ms_clock`. -/
def atNotifyStamp (s : State) : Res := .next { s with lastNotify := s.msClock }

/-- `PM.POLL` p5: `last[p] <- v`, watched or not. -/
def atLastStore (p : Nat) (v : Byte) (s : State) : Res := .next { s with last := s.last.set p v }

end Sys2Proof.Machine
end

