-- ==== Sys2Proof/Machine/MainDispatcher.lean ====
section
/-!
DEFINITION. `CD.DISPATCH` and the wire commands (44_dispatcher R211 to R223). A command is given the bytes of its line;
length and pin digit are checked before anything else (R211 g1, g2), and a fatal error is raised before any response
byte (R211).
-/
namespace Sys2Proof.Machine

/-- `CMD.Z`: arm the watchdog; `MAIN` takes no further step; `I` is left as it is; no response (R212). -/
def startCmdZ (s : State) : Res := .next ({ s.wdtArm with run := .resetWait }.setMain [])

/-- `CMD.FWD1..3`: payload and CRLF on channel `k`, then the echo on the control channel (R213). -/
def forward (k : Channel) (digit : Byte) (payload : List Byte) (s : State) : Res :=
  if payload = [] then .next (raiseFatal .emptyPayload s)
  else .next (s.push (emitAll k (forwardPayload payload) ++ emitAll .ch0 (forwardEcho (digit :: payload))))

/-- The common part of the eight defined `G3` commands: g1, g2, then `resolve` (R211). -/
def withPort (args : List Byte) (s : State) (act : Byte → Byte → Pin → Nat → Res) : Res :=
  match g3Operands args with
  | .error kind => .next (raiseFatal kind s)
  | .ok (port, pin, i) =>
    match portIndex s.cfg port with
    | none => .next (raiseFatal .badPort s)
    | some p => act port pin i p

/-- The response of a command without a value (R211 g4). -/
def respond (op port pin : Byte) (s : State) : Res := .next (s.push (emitAll .ch0 (g3Response op port pin)))

/-- The response of a command with a value (R211 g4). -/
def respondValue (op port pin : Byte) (v : Word16) (s : State) : Res :=
  .next (s.push (emitAll .ch0 (g3ValueResponse op port pin v)))

/-- `CMD.H` (R215). -/
def startCmdH (args : List Byte) (s : State) : Res :=
  withPort args s fun port pin i p => respond 0x48#8 port pin (s.logDrv (.outputHigh p i))

/-- `CMD.L` (R216). -/
def startCmdL (args : List Byte) (s : State) : Res :=
  withPort args s fun port pin i p => respond 0x4C#8 port pin (s.logDrv (.outputLow p i))

/-- `CMD.U` (R217). -/
def startCmdU (args : List Byte) (s : State) : Res :=
  withPort args s fun port pin i p => respond 0x55#8 port pin (s.logDrv (.inputPullup p i))

/-- `CMD.D` (R218). -/
def startCmdD (args : List Byte) (s : State) : Res :=
  withPort args s fun port pin i p => respond 0x44#8 port pin (s.logDrv (.inputNopull p i))

/-- `CMD.I`: the pin's bit in place (R219, 10_state R42). -/
def startCmdI (args : List Byte) (s : State) : Res :=
  withPort args s fun port pin i p => respondValue 0x49#8 port pin (s.readPin p i) (s.logDrv (.readPin p i))

/-- `CMD.A`: the port must be analog-capable, after it is known to be a port (R220). -/
def startCmdA (args : List Byte) (s : State) : Res :=
  withPort args s fun port pin i p =>
    if portLetter s.cfg p ∈ s.cfg.analogPorts then
      respondValue 0x41#8 port pin (drawAdc s).1 ((drawAdc s).2.logDrv (.readAnalog p i))
    else .next (raiseFatal .badAnalogPort s)

/-- `CMD.M`: `PM.WATCH(p, i)` (R221). -/
def startCmdM (args : List Byte) (s : State) : Res :=
  withPort args s fun port pin i p => respond 0x4D#8 port pin (watchPin p i s)

/-- `CMD.N`: `PM.UNWATCH(p, i)` (R222). -/
def startCmdN (args : List Byte) (s : State) : Res :=
  withPort args s fun port pin i p => respond 0x4E#8 port pin (unwatchPin p i s)

/-- `CMD.UNK`: no action, the port letter is not resolved; the three bytes are echoed (R223, 30_encoding R107). -/
def startCmdUnk (op : Byte) (args : List Byte) (s : State) : Res :=
  match g3Operands args with
  | .error kind => .next (raiseFatal kind s)
  | .ok (port, pin, _) => respond op port pin s

/-- `CD.DISPATCH`: the line of channel 0 is decoded and its command runs (R211). Without a ready line it has no meaning and
is refused (42_line_framer R175, 93 U5). -/
def startCdDispatch (s : State) : Res :=
  if (s.lf.get .ch0).ready then
    match lineOf .ch0 s with
    | .error f => .fault f
    | .ok bytes =>
      match decodeLine bytes with
      | .ok i => .next (s.push [.call i])
      | .error e => .refused (.badRequest e)
  else .refused .lineNotReady

end Sys2Proof.Machine
end

