-- ==== Sys2Proof/Machine/MainScheduler.lean ====
section
/-!
DEFINITION. The Scheduler's steps (45_scheduler R250 to R254), startup (70_reset R311) and the fatal handler's last lines
(60_exceptions R274).
-/
namespace Sys2Proof.Machine

/-- `SCH.A`: `LF.APPEND(0)`, then a ready line is dispatched (R251). -/
def startSchA (s : State) : Res := .next (s.push [.call (.lfAppend .ch0), .schADispatch])

/-- `SCH.A` after the append. -/
def atSchADispatch (s : State) : Res :=
  if (s.lf.get .ch0).ready then .next (s.push [.call .cdDispatch, .call (.lfReset .ch0)]) else .next s

/-- `SCH.B(k)`: `LF.APPEND(k)`, then a ready line is forwarded (R252). -/
def startSchB (k : Channel) (s : State) : Res := .next (s.push [.call (.lfAppend k), .schBForward k])

/-- `SCH.B` after the append: digit, line, CRLF on the control channel, then `LF.RESET(k)`. -/
def atSchBForward (k : Channel) (s : State) : Res :=
  if (s.lf.get k).ready then
    match lineOf k s with
    | .error f => .fault f
    | .ok bytes => .next (s.push (emitAll .ch0 (auxForward k bytes) ++ [.call (.lfReset k)]))
  else .next s

/-- `SCH.C`: one read of `ms_clock`; if due, `last_poll` takes it and the monitor polls (R253). -/
def startSchC (s : State) : Res :=
  if pollDue s.msClock s.lastPoll then .next ({ s with lastPoll := s.msClock }.push [.call .pmPoll]) else .next s

/-- The step named by `sched_phase` (R254). -/
def phaseInstr : Phase → Instr
  | .a => .schA
  | .b1 => .schB .ch1
  | .b2 => .schB .ch2
  | .b3 => .schB .ch3
  | .c => .schC

/-- The cycle `A → B1 → B2 → B3 → C → A` (R254). -/
def nextPhase : Phase → Phase
  | .a => .b1
  | .b1 => .b2
  | .b2 => .b3
  | .b3 => .c
  | .c => .a

/-- `sched_phase <- ph` (R254). -/
def atAdvance (ph : Phase) (s : State) : Res := .next { s with schedPhase := ph }

/-- `SYS.START`: b3 enables interrupts, b4 emits the banner (70_reset R311). -/
def startSysStart (s : State) : Res :=
  .next ({ s with ie := true, startPending := false }.push (emitAll .ch0 banner))

/-- `SYS.FATAL` h1, with h2 to h4 left to do (60_exceptions R274). -/
def startSysFatal (kind : FatalKind) (s : State) : Res := .next (enterFatal kind s)

/-- `SYS.FATAL` h3: with `FATAL_ACTION = watchdog` the watchdog is armed. -/
def atFatalArm (s : State) : Res :=
  match s.cfg.fatalAction with
  | .watchdog => .next s.wdtArm
  | .spin => .next s

/-- `SYS.FATAL` h4: `MAIN` takes no further step. -/
def atFatalHalt (kind : FatalKind) (s : State) : Res := .next ({ s with run := .halted kind }.setMain [])

end Sys2Proof.Machine
end

