-- ==== Sys2Proof/Machine/Run.lean ====
section
/-!
DEFINITION. How `MAIN` runs: one access at a time, the environment's turns in between (20_memory R70), until the operation
is done or waits for something no turn brings (00_scope R13 `await`).
-/
namespace Sys2Proof.Machine

/-- The first line of an instruction when `MAIN` reaches it. The events and handlers are never in `MAIN`'s own code; here
they have the effect they have anywhere. -/
def callInstr (i : Instr) (s : State) : Res :=
  match i with
  | .rbPush q b => startRbPush q b s
  | .rbPop q => startRbPop q s
  | .rbEmpty q => startRbEmpty q s
  | .rbFull q => startRbFull q s
  | .rbPushd q b => pushDropOldest q b s
  | .chRxi c b => rxiHandler c b s
  | .chTxi c => txiHandler c s
  | .chTx c b => startChTx c b s
  | .chDrain c => startChDrain c s
  | .lfAppend c => startLfAppend c s
  | .lfReset c => startLfReset c s
  | .pmPoll => startPmPoll s
  | .pmWatch p i => startPmWatch p i s
  | .pmUnwatch p i => startPmUnwatch p i s
  | .clkTick => tickHandler s
  | .cdDispatch => startCdDispatch s
  | .schA => startSchA s
  | .schB k => startSchB k s
  | .schC => startSchC s
  | .sysStart => startSysStart s
  | .sysFatal kind => startSysFatal kind s
  | .sysCritEnter => .next (critEnter s)
  | .sysCritExit saved => .next (critExit saved s)
  | .envRxbyte c b => rxByteEvent c b s
  | .envTxrdy c => .next (txRdyEvent c s)
  | .envReset => .next (resetEvent s)
  | .cmdZ => startCmdZ s
  | .cmdFwd1 payload => forward .ch1 0x31#8 payload s
  | .cmdFwd2 payload => forward .ch2 0x32#8 payload s
  | .cmdFwd3 payload => forward .ch3 0x33#8 payload s
  | .cmdH args => startCmdH args s
  | .cmdL args => startCmdL args s
  | .cmdU args => startCmdU args s
  | .cmdD args => startCmdD args s
  | .cmdI args => startCmdI args s
  | .cmdA args => startCmdA args s
  | .cmdM args => startCmdM args s
  | .cmdN args => startCmdN args s
  | .cmdUnk op args => startCmdUnk op args s

/-- One access of `MAIN`. -/
def access (m : Micro) (s : State) : Res :=
  match m with
  | .call i => callInstr i s
  | .emptyWr q r => atEmptyWr q r s
  | .fullRd q w => atFullRd q w s
  | .pushRd q b w => atPushRd q b w s
  | .pushStore q b w => atPushStore q b w s
  | .pushWr q w => atPushWr q w s
  | .popWr q r => atPopWr q r s
  | .popStore q r => atPopStore q r s
  | .popRd q r b => atPopRd q r b s
  | .txWait c b => atTxWait c b s
  | .txWaited c b => atTxWaited c b s
  | .txEnable c => atTxEnable c s
  | .txMakeRoom c b => atTxMakeRoom c b s
  | .drainLoop c => atDrainLoop c s
  | .drainTest c => atDrainTest c s
  | .drainWait c => atDrainWait c s
  | .drainSend c => atDrainSend c s
  | .appendByte c => atAppendByte c s
  | .pollPort p => atPollPort p s
  | .notifyStamp => atNotifyStamp s
  | .lastStore p v => atLastStore p v s
  | .schADispatch => atSchADispatch s
  | .schBForward k => atSchBForward k s
  | .advance ph => atAdvance ph s
  | .fatalArm => atFatalArm s
  | .fatalHalt kind => atFatalHalt kind s

/-- `MAIN` takes its next access, if it has one. -/
def mainAccess (s : State) : Res :=
  match s.main with
  | [] => .next s
  | m :: rest => access m (s.setMain rest)

/-- `MAIN` stands at an `await` whose condition does not hold: `CH.TX` t1 with the buffer full, `CH.DRAIN` d2 with the
transmitter not ready (20_memory R74; log 8). -/
def State.waiting (s : State) : Bool :=
  match s.main with
  | .txWait c _ :: _ => s.isFull (.tx c)
  | .drainWait c :: _ => !s.txReady.get c
  | _ => false

/-- `MAIN` has nothing to do: its operation is complete, or `run` is not `Running` (10_state R31). -/
def State.idle (s : State) : Bool := s.main.isEmpty || s.run != .running

/-- One turn: the schedule's next turn if there is one, otherwise `MAIN`'s next access. -/
def turn (s : State) : Res :=
  match s.env with
  | .main :: rest => mainAccess (s.setEnv rest)
  | t :: rest => deliver t (s.setEnv rest)
  | [] => mainAccess s

/-- `MAIN` stops here: it is idle, or it waits and the schedule brings nothing more. -/
def State.settled (s : State) : Bool := s.idle || (s.env.isEmpty && s.waiting)

/-- At most `n` turns, until the state is settled. Stopping early leaves `MAIN` in the middle of its operation, a state
like any other (log 7). -/
def runTurns : Nat → State → Res
  | 0, s => .next s
  | n + 1, s => if s.settled then .next s else andThen (turn s) (runTurns n)

/-- The sum of the capacities and lengths of the configuration. -/
def configSize (cfg : Config) : Nat :=
  cfg.nRx.c0 + cfg.nRx.c1 + cfg.nRx.c2 + cfg.nRx.c3 + cfg.nTx.c0 + cfg.nTx.c1 + cfg.nTx.c2 + cfg.nTx.c3 +
    cfg.lineCap + cfg.ports.length + cfg.fatalMsg.lineTooShort.length + cfg.fatalMsg.pinRange.length +
    cfg.fatalMsg.badPort.length + cfg.fatalMsg.emptyPayload.length + cfg.fatalMsg.badAnalogPort.length +
    cfg.fatalMsg.lineTooLong.length

/-- How many turns one step may take: more than any operation needs (log 7). -/
def State.budget (s : State) : Nat := 1000 * (configSize s.cfg + s.env.length + s.main.length + 1)

/-- `MAIN` runs, with the schedule's turns in between, until the state is settled. -/
def runMain (s : State) : Res := runTurns s.budget s

/-- `MAIN` performs instruction `i`: after what it is in the middle of, for operations of `MAIN` never interleave
(44_dispatcher R210; log 14). While `run` is not `Running`, `MAIN` has no further step (10_state R31). -/
def byMain (i : Instr) (s : State) : Res :=
  if s.run = .running then runMain (s.setMain (s.main ++ [.call i])) else .next s

/-- The loop of `MAIN` while nothing is requested of it (45_scheduler R254): finish the operation it is in; after a reset
`SYS.START` once (70_reset R310, R311); then the step `sched_phase` names, and the phase advance. -/
def mainLoop (s : State) : Res :=
  match s.main with
  | _ :: _ => runMain s
  | [] =>
    if s.startPending then runMain (s.setMain [.call .sysStart])
    else runMain (s.setMain [.call (phaseInstr s.schedPhase), .advance (nextPhase s.schedPhase)])

/-- What happens while `MAIN` has no step (`ResetWait`, `Halted`; 60_exceptions R295): the schedule's turns, one at a
time. -/
def envStep (s : State) : Res :=
  match s.env with
  | t :: rest => deliver t (s.setEnv rest)
  | [] => .next s

end Sys2Proof.Machine
end

