-- ==== Sys2Proof/Machine/Channel.lean ====
section
/-!
DEFINITION. The meanings of `CH.RXI`, `CH.TXI`, `CH.TX`, `CH.DRAIN` (41_channel R152 to R155) and of the environment's
events `ENV.RXBYTE`, `ENV.TXRDY` (R157, R158).
-/
namespace Sys2Proof.Machine

/-- `CH.RXI(c, b)`, handler `RXI[c]` (R152). -/
def execChRxi (c : Channel) (b : Byte) (s : State) : Res := rxiHandler c b s

/-- `CH.TXI(c)`, handler `TXI[c]` (R153). -/
def execChTxi (c : Channel) (s : State) : Res := txiHandler c s

/-- `CH.TX(c, b)` (R154). -/
def execChTx (c : Channel) (b : Byte) (s : State) : Res := byMain (.chTx c b) s

/-- `CH.DRAIN(c)` (R155). -/
def execChDrain (c : Channel) (s : State) : Res := byMain (.chDrain c) s

/-- `ENV.RXBYTE(c, b)` (R157). -/
def execEnvRxbyte (c : Channel) (b : Byte) (s : State) : Res := rxByteEvent c b s

/-- `ENV.TXRDY(c)` (R158). -/
def execEnvTxrdy (c : Channel) (s : State) : Res := .next (txRdyEvent c s)

end Sys2Proof.Machine
end

