-- ==== Sys2Proof/Machine/Dispatcher.lean ====
section
/-!
DEFINITION. The meanings of `CD.DISPATCH` and of the wire commands (44_dispatcher R211 to R223). A command requested alone
is the whole of what `CD.DISPATCH` does on its line: checks, action, response (log 21).
-/
namespace Sys2Proof.Machine

/-- `CD.DISPATCH` (R211). -/
def execCdDispatch (s : State) : Res := byMain .cdDispatch s

/-- `CMD.Z` (R212). -/
def execCmdZ (s : State) : Res := byMain .cmdZ s

/-- `CMD.FWD1` (R213). -/
def execCmdFwd1 (payload : List Byte) (s : State) : Res := byMain (.cmdFwd1 payload) s

/-- `CMD.FWD2` (R213). -/
def execCmdFwd2 (payload : List Byte) (s : State) : Res := byMain (.cmdFwd2 payload) s

/-- `CMD.FWD3` (R213). -/
def execCmdFwd3 (payload : List Byte) (s : State) : Res := byMain (.cmdFwd3 payload) s

/-- `CMD.H` (R215). -/
def execCmdH (args : List Byte) (s : State) : Res := byMain (.cmdH args) s

/-- `CMD.L` (R216). -/
def execCmdL (args : List Byte) (s : State) : Res := byMain (.cmdL args) s

/-- `CMD.U` (R217). -/
def execCmdU (args : List Byte) (s : State) : Res := byMain (.cmdU args) s

/-- `CMD.D` (R218). -/
def execCmdD (args : List Byte) (s : State) : Res := byMain (.cmdD args) s

/-- `CMD.I` (R219). -/
def execCmdI (args : List Byte) (s : State) : Res := byMain (.cmdI args) s

/-- `CMD.A` (R220). -/
def execCmdA (args : List Byte) (s : State) : Res := byMain (.cmdA args) s

/-- `CMD.M` (R221). -/
def execCmdM (args : List Byte) (s : State) : Res := byMain (.cmdM args) s

/-- `CMD.N` (R222). -/
def execCmdN (args : List Byte) (s : State) : Res := byMain (.cmdN args) s

/-- `CMD.UNK` (R223). -/
def execCmdUnk (op : Byte) (args : List Byte) (s : State) : Res := byMain (.cmdUnk op args) s

end Sys2Proof.Machine
end

