-- ==== Sys2Proof/Machine/LineFramer.lean ====
section
/-!
DEFINITION. The meanings of `LF.APPEND` and `LF.RESET` (42_line_framer R172, R173).
-/
namespace Sys2Proof.Machine

/-- `LF.APPEND(c)` (R172). -/
def execLfAppend (c : Channel) (s : State) : Res := byMain (.lfAppend c) s

/-- `LF.RESET(c)` (R173). -/
def execLfReset (c : Channel) (s : State) : Res := byMain (.lfReset c) s

end Sys2Proof.Machine
end

