-- ==== Sys2Proof/Machine/PortMonitor.lean ====
section
/-!
DEFINITION. The meanings of `PM.POLL`, `PM.WATCH`, `PM.UNWATCH` and `CLK.TICK` (43_port_monitor R191 to R197).
-/
namespace Sys2Proof.Machine

/-- `PM.POLL` (R193). -/
def execPmPoll (s : State) : Res := byMain .pmPoll s

/-- `PM.WATCH(p, i)` (R191). -/
def execPmWatch (p : Nat) (i : Pin) (s : State) : Res := byMain (.pmWatch p i) s

/-- `PM.UNWATCH(p, i)` (R192). -/
def execPmUnwatch (p : Nat) (i : Pin) (s : State) : Res := byMain (.pmUnwatch p i) s

/-- `CLK.TICK`, handler `TMR` (R197). -/
def execClkTick (s : State) : Res := tickHandler s

end Sys2Proof.Machine
end

