-- ==== Sys2Proof/Machine/RingBuffer.lean ====
section
/-!
DEFINITION. The meanings of `RB.EMPTY`, `RB.FULL`, `RB.PUSH`, `RB.POP`, `RB.PUSHD` (40_ring_buffer R132 to R136). Who
executes an operation is the spec's: a transmit buffer's producer and a receive buffer's consumer is `MAIN`, the other
side a handler, or `MAIN` itself while `I = 0` (10_state R23; log 15).
-/
namespace Sys2Proof.Machine

/-- `RB.PUSH(q, b)`: by `MAIN` for `tx[c]`, inside `RXI[c]` for `rx[c]` (R134). -/
def execRbPush (q : Queue) (b : Byte) (s : State) : Res :=
  match q.dir with
  | .tx => byMain (.rbPush q b) s
  | .rx => pushAtomic q b s

/-- `RB.POP(q)`: by `MAIN` for `rx[c]`; for `tx[c]` inside `TXI[c]`, or by `MAIN` while `I = 0` (R135). -/
def execRbPop (q : Queue) (s : State) : Res :=
  match q.dir with
  | .rx => byMain (.rbPop q) s
  | .tx =>
    if s.ie then
      match popAtomic q s with
      | .ok (r, t) => .next (t.withRet (.byte r))
      | .error f => .fault f
    else byMain (.rbPop q) s

/-- `RB.EMPTY(q)` (R132). -/
def execRbEmpty (q : Queue) (s : State) : Res := byMain (.rbEmpty q) s

/-- `RB.FULL(q)` (R133). -/
def execRbFull (q : Queue) (s : State) : Res := byMain (.rbFull q) s

/-- `RB.PUSHD(q, b)`: inside `RXI[c]`, never interrupted (R136). -/
def execRbPushd (q : Queue) (b : Byte) (s : State) : Res := pushDropOldest q b s

end Sys2Proof.Machine
end

