-- ==== Sys2Proof/Machine/Scheduler.lean ====
section
/-!
DEFINITION. The meanings of `SCH.A`, `SCH.B`, `SCH.C` (45_scheduler R251 to R253). The phase advance belongs to the loop
(R254), not to the step.
-/
namespace Sys2Proof.Machine

/-- `SCH.A` (R251). -/
def execSchA (s : State) : Res := byMain .schA s

/-- `SCH.B(k)` (R252). -/
def execSchB (k : Channel) (s : State) : Res := byMain (.schB k) s

/-- `SCH.C` (R253). -/
def execSchC (s : State) : Res := byMain .schC s

end Sys2Proof.Machine
end

