-- ==== Sys2Proof/Machine/System.lean ====
section
/-!
DEFINITION. The meanings of `SYS.START` (70_reset R311), `SYS.FATAL` (60_exceptions R274), `SYS.CRIT_ENTER`, `SYS.CRIT_EXIT`
(R297, R298) and `ENV.RESET` (70_reset R310).
-/
namespace Sys2Proof.Machine

/-- `SYS.START` (70_reset R311). -/
def execSysStart (s : State) : Res := byMain .sysStart s

/-- `SYS.FATAL(kind)` (60_exceptions R274). -/
def execSysFatal (kind : FatalKind) (s : State) : Res := byMain (.sysFatal kind) s

/-- `SYS.CRIT_ENTER` (60_exceptions R297). -/
def execSysCritEnter (s : State) : Res := byMain .sysCritEnter s

/-- `SYS.CRIT_EXIT(saved)` (60_exceptions R298). -/
def execSysCritExit (saved : Bool) (s : State) : Res := byMain (.sysCritExit saved) s

/-- `ENV.RESET`, from any state (70_reset R310, 93 U13). -/
def execEnvReset (s : State) : Res := .next (resetEvent s)

end Sys2Proof.Machine
end

