-- ==== Sys2Proof/Machine/Dispatch.lean ====
section
/-!
DEFINITION. One arm per instruction: which meaning it has.
-/
namespace Sys2Proof.Machine

def exec (i : Instr) (s : State) : Host.Outcome State Fault Refusal :=
  match i with
  | .rbPush q b => Sys2Proof.Machine.execRbPush q b s
  | .rbPop q => Sys2Proof.Machine.execRbPop q s
  | .rbEmpty q => Sys2Proof.Machine.execRbEmpty q s
  | .rbFull q => Sys2Proof.Machine.execRbFull q s
  | .rbPushd q b => Sys2Proof.Machine.execRbPushd q b s
  | .chRxi c b => Sys2Proof.Machine.execChRxi c b s
  | .chTxi c => Sys2Proof.Machine.execChTxi c s
  | .chTx c b => Sys2Proof.Machine.execChTx c b s
  | .chDrain c => Sys2Proof.Machine.execChDrain c s
  | .lfAppend c => Sys2Proof.Machine.execLfAppend c s
  | .lfReset c => Sys2Proof.Machine.execLfReset c s
  | .pmPoll => Sys2Proof.Machine.execPmPoll s
  | .pmWatch p pin => Sys2Proof.Machine.execPmWatch p pin s
  | .pmUnwatch p pin => Sys2Proof.Machine.execPmUnwatch p pin s
  | .clkTick => Sys2Proof.Machine.execClkTick s
  | .cdDispatch => Sys2Proof.Machine.execCdDispatch s
  | .schA => Sys2Proof.Machine.execSchA s
  | .schB k => Sys2Proof.Machine.execSchB k s
  | .schC => Sys2Proof.Machine.execSchC s
  | .sysStart => Sys2Proof.Machine.execSysStart s
  | .sysFatal kind => Sys2Proof.Machine.execSysFatal kind s
  | .sysCritEnter => Sys2Proof.Machine.execSysCritEnter s
  | .sysCritExit saved => Sys2Proof.Machine.execSysCritExit saved s
  | .envRxbyte c b => Sys2Proof.Machine.execEnvRxbyte c b s
  | .envTxrdy c => Sys2Proof.Machine.execEnvTxrdy c s
  | .envReset => Sys2Proof.Machine.execEnvReset s
  | .cmdZ => Sys2Proof.Machine.execCmdZ s
  | .cmdFwd1 payload => Sys2Proof.Machine.execCmdFwd1 payload s
  | .cmdFwd2 payload => Sys2Proof.Machine.execCmdFwd2 payload s
  | .cmdFwd3 payload => Sys2Proof.Machine.execCmdFwd3 payload s
  | .cmdH args => Sys2Proof.Machine.execCmdH args s
  | .cmdL args => Sys2Proof.Machine.execCmdL args s
  | .cmdU args => Sys2Proof.Machine.execCmdU args s
  | .cmdD args => Sys2Proof.Machine.execCmdD args s
  | .cmdI args => Sys2Proof.Machine.execCmdI args s
  | .cmdA args => Sys2Proof.Machine.execCmdA args s
  | .cmdM args => Sys2Proof.Machine.execCmdM args s
  | .cmdN args => Sys2Proof.Machine.execCmdN args s
  | .cmdUnk op args => Sys2Proof.Machine.execCmdUnk op args s

end Sys2Proof.Machine
end

