-- ==== Sys2Proof/Machine/Step.lean ====
section
/-!
DEFINITION. One step of the machine: a request is fetched, decoded and run; without a request `MAIN` goes on, or, once it is
stopped, the environment does (log 4, 19).
-/
namespace Sys2Proof.Machine

/-- One step. A request that decodes to nothing is refused and changes nothing (93 U6, U7). -/
def step (s : State) : Host.Outcome State Fault Refusal :=
  match s.requests with
  | r :: rest =>
    match decode r with
    | .ok i => exec i { s with requests := rest }
    | .error e => .refused (.badRequest e)
  | [] => if s.run = .running then mainLoop s else envStep s

/-- The state with the request of an opcode-table word placed where `step` fetches next (log 3, 4). -/
def State.withFetchWord (s : State) (nbits w : Nat) : State :=
  { s with requests := tableRequest nbits w :: s.requests }

end Sys2Proof.Machine
end

