-- ==== Sys2Proof/Safety.lean ====
section
/-!
DEFINITION. The terms the claims are stated in: the invariant of the state, a state in which `MAIN` is between operations,
and what the claims say a transmit, a poll and a fatal error leave.
-/
namespace Sys2Proof.Machine

/-! ### The invariant -/

/-- A ring buffer of capacity `n`: indices reduced, storage in canonical form and inside the array (10_state R21, R22). -/
abbrev Ring.wf (n : Nat) (r : Ring) : Prop :=
  r.rd < n ∧ r.wr < n ∧ Memory.wf r.store ∧ ∀ e ∈ r.store, e.1 < n

/-- A line buffer of capacity `n` (10_state R25, R26): `len` at most `n` (`n` itself only once a line too long has been
met), `ready` only with content, storage in canonical form and inside the array. -/
abbrev LineBuf.wf (n : Nat) (l : LineBuf) : Prop :=
  l.len ≤ n ∧ (l.ready = true → 1 ≤ l.len) ∧ Memory.wf l.line ∧ ∀ e ∈ l.line, e.1 < n

/-- The invariant of the state: bounds of the parameters (00_scope R9, R10), ring and line buffers, one mask, last value and
pin level per port (10_state R27, R40), no handler active between steps (60_exceptions R282). -/
structure State.wf (s : State) : Prop where
  cfg : s.cfg.wf
  rings : ∀ q, Ring.wf (s.capacity q) (s.ring q)
  lines : ∀ c, LineBuf.wf s.cfg.lineCap (s.lf.get c)
  mask : s.mask.length = s.cfg.numPorts
  last : s.last.length = s.cfg.numPorts
  pins : s.pinIn.length = s.cfg.numPorts
  isr : s.isrActive = false

/-! ### Conditions on the state -/

/-- `MAIN` runs, is between two operations, and the schedule has no turn left: what is executed next is executed alone. -/
structure State.atRest (s : State) : Prop where
  run : s.run = .running
  main : s.main = []
  env : s.env = []

/-- `n` more bytes fit in `tx[c]` (10_state R22: usable capacity `N - 1`). -/
abbrev State.room (s : State) (c : Channel) (n : Nat) : Prop :=
  s.count (.tx c) + n < s.capacity (.tx c)

/-- The queued bytes of `q`, oldest first, are `bs`: each slot has been written (10_state R22, 20_memory R77). -/
abbrev State.holds (s : State) (q : Queue) (bs : List Byte) : Prop := s.queued q = bs.map some

/-! ### What a transmit leaves -/

/-- After `CH.TX(c, b)` with `I = 1` and room: the byte stored at `wr`, `wr` advanced, the transmit interrupt enabled
(41_channel R154 t2, t3; the push returned true). -/
def afterEmit (c : Channel) (b : Byte) (s : State) : State :=
  ((s.setRing (.tx c)
      { store := Memory.write (s.ring (.tx c)).store (s.ring (.tx c)).wr b
        rd := (s.ring (.tx c)).rd
        wr := nextIndex (s.capacity (.tx c)) (s.ring (.tx c)).wr }).setIrqEn c true).withRet (.bool true)

/-- After `emit_all(c, bytes)` with `I = 1` and room. -/
def afterEmitAll (c : Channel) (bs : List Byte) (s : State) : State := bs.foldl (fun t b => afterEmit c b t) s

/-- Outside the `n` slots that pushes from the old `wr` on have stored to, the storage of `tx[c]` reads as in `s`. -/
def State.sameTxBut (t : State) (c : Channel) (n : Nat) (s : State) : Prop :=
  ∀ k, (∀ j < n, k ≠ ((s.ring (.tx c)).wr + j) % s.capacity (.tx c)) →
    Memory.read (t.ring (.tx c)).store k = Memory.read (s.ring (.tx c)).store k

/-! ### What a framer makes of a byte stream (42_line_framer R171, R176) -/

/-- The bytes `u` from the first one that is not discarded: NUL, LF and CR are, before any content byte (`part` empty). -/
def pastLeading (part u : List Byte) : List Byte :=
  if part = [] then u.dropWhile (fun b => b == 0x00#8 || b == 0x0A#8 || b == 0x0D#8) else u

/-- The line a framer that holds `part` has made of the bytes `u`: what stands before the first CR or LF. -/
def framedLine (part u : List Byte) : List Byte :=
  part ++ (pastLeading part u).takeWhile (fun b => b != 0x0A#8 && b != 0x0D#8)

/-- What is left of `u` from the line's terminator on; empty when no terminator has come. -/
def behindLine (part u : List Byte) : List Byte :=
  (pastLeading part u).dropWhile (fun b => b != 0x0A#8 && b != 0x0D#8)

/-! ### What a poll reports -/

/-- Pin `i` of port `p` is watched and its level differs from the recorded one (43_port_monitor R193). -/
def State.pinChanged (s : State) (p : Nat) (i : Pin) : Bool :=
  (s.maskOf p).getLsbD i.val && ((s.pinsOf p).getLsbD i.val != (s.lastOf p).getLsbD i.val)

/-- The notifications of one poll, ports in the order of `PORTS`, pins ascending (43_port_monitor R193, 30_encoding R108). -/
def State.pollReport (s : State) : List Byte :=
  (List.range s.cfg.numPorts).flatMap fun p =>
    (List.finRange 8).flatMap fun i =>
      if s.pinChanged p i then
        [0x21#8, if (s.pinsOf p).getLsbD i.val then 0x48#8 else 0x4C#8, portLetter s.cfg p,
          BitVec.ofNat 8 (0x30 + i.val), 0x0D#8, 0x0A#8]
      else []

/-! ### Fatal errors -/

/-- `SYS.FATAL(kind)` has been entered: `I = 0`, and `MAIN` is halted or has h4 still before it (60_exceptions R274). -/
structure State.inFatal (s : State) (kind : FatalKind) : Prop where
  masked : s.ie = false
  goes : s.run = .halted kind ∨ (s.run = .running ∧ Micro.fatalHalt kind ∈ s.main)

/-- The positions of `CH.TX`, `CH.DRAIN`, `RB.*` and the critical section on channel `c` with `I = 0`, and h3: what
`SYS.FATAL` calls (60_exceptions R277). -/
def Micro.reportOn (c : Channel) : Micro → Bool
  | .call (.chTx d _) => d == c
  | .call (.chDrain d) => d == c
  | .call (.rbFull q) => q == .tx c
  | .call (.rbEmpty q) => q == .tx c
  | .call (.rbPush q _) => q == .tx c
  | .call (.rbPop q) => q == .tx c
  | .call (.sysCritExit saved) => !saved
  | .emptyWr q _ => q == .tx c
  | .fullRd q _ => q == .tx c
  | .pushRd q _ _ => q == .tx c
  | .pushStore q _ _ => q == .tx c
  | .pushWr q _ => q == .tx c
  | .popWr q _ => q == .tx c
  | .popStore q _ => q == .tx c
  | .popRd q _ _ => q == .tx c
  | .txMakeRoom d _ => d == c
  | .drainLoop d => d == c
  | .drainTest d => d == c
  | .drainWait d => d == c
  | .drainSend d => d == c
  | .fatalArm => true
  | _ => false

/-- The fatal handler is on its way or done: interrupts are off, and `MAIN` is halted, or everything before h4 is report
(60_exceptions R277). -/
def State.fatalUnderway (s : State) (kind : FatalKind) : Prop :=
  s.ie = false ∧
    (s.run = .halted kind ∨
      (s.run = .running ∧ ∃ pre post, s.main = pre ++ Micro.fatalHalt kind :: post ∧
        ∀ m ∈ pre, m.reportOn .ch0 = true))

/-- `len < L` on every channel, but for the line too long that has just raised its fatal error (10_state R26,
42_line_framer R174). -/
def State.linesShort (s : State) : Prop :=
  (∀ c, (s.lf.get c).len < s.cfg.lineCap) ∨
    (s.run = .running ∧ s.main.head? = some (.call (.sysFatal .lineTooLong))) ∨
    s.fatalUnderway .lineTooLong

/-- Everything `MAIN` alone writes is as in `s` (20_memory R72). -/
structure State.sameMain (t s : State) : Prop where
  run : t.run = s.run
  main : t.main = s.main
  ie : t.ie = s.ie
  lf : t.lf = s.lf
  mask : t.mask = s.mask
  last : t.last = s.last
  lastPoll : t.lastPoll = s.lastPoll
  lastNotify : t.lastNotify = s.lastNotify
  schedPhase : t.schedPhase = s.schedPhase
  wdtArmed : t.wdtArmed = s.wdtArmed
  drvLog : t.drvLog = s.drvLog

/-- A schedule in which the transmitter of channel `c` is made ready before each of `n` accesses of `MAIN` (the fairness of
41_channel R158, as a schedule). -/
def readySchedule (c : Channel) : Nat → List Turn
  | 0 => []
  | n + 1 => .txRdy c :: .main :: readySchedule c n

/-! ### Sequences of operations on one buffer -/

/-- An operation of the FIFO law (40_ring_buffer R138). -/
inductive FifoOp where
  | push (b : Byte)
  | pop
  deriving DecidableEq, Repr

/-- The operations run one after another through `exec`: the bytes pushed, the bytes popped, and the state at the end, or
`none` if a push answers false or an operation stops. A pop that finds nothing pops no byte. -/
def runFifo (q : Queue) : List FifoOp → State → Option (List Byte × List Byte × State)
  | [], s => some ([], [], s)
  | .push b :: ops, s =>
    match exec (.rbPush q b) s with
    | .next t =>
      if t.ret = .bool true then
        match runFifo q ops t with
        | some (pushed, popped, u) => some (b :: pushed, popped, u)
        | none => none
      else none
    | _ => none
  | .pop :: ops, s =>
    match exec (.rbPop q) s with
    | .next t =>
      match t.ret with
      | .byte (some b) =>
        match runFifo q ops t with
        | some (pushed, popped, u) => some (pushed, b :: popped, u)
        | none => none
      | .byte none => runFifo q ops t
      | _ => none
    | _ => none

end Sys2Proof.Machine
end

