-- ==== Sys2Proof/Certificates/Slice0/Obligations.lean ====
section
/-!
DEFINITION. The statements for the provers. Each says which rule of the spec it formalises; where it rests on a choice of
the model its docstring names the log entry.
-/

open Sys2Proof Sys2Proof.Machine

/-! ### Reset and startup -/

/-- 10_state R46: the values the reset event leaves, from any state; what is unspecified there is not named here (log 9, 10). -/
def Obligations.ResetEventGivesResetValues : Prop :=
  ∀ s : State, ∃ t : State, exec .envReset s = .next t ∧
    (∀ q, (t.ring q).rd = 0 ∧ (t.ring q).wr = 0) ∧
    (∀ c, t.txIrqEn.get c = false ∧ (t.lf.get c).len = 0 ∧ (t.lf.get c).ready = false ∧ t.wireOut.get c = []) ∧
    t.mask = List.replicate s.cfg.numPorts 0x00#8 ∧ t.last = s.cfg.last0 ∧
    t.lastNotify = 0#8 ∧ t.lastPoll = 0#8 ∧ t.msClock = 0#8 ∧ t.ie = false ∧ t.isrActive = false ∧
    t.run = .running ∧ t.wdtArmed = false ∧ t.schedPhase = .a ∧ t.drvLog = []

/-- The state after reset meets the invariants that every step keeps. -/
def Obligations.ResetMeetsInvariants : Prop := State.reset.wf ∧ State.reset.linesShort

/-- 70_reset R310, R311: after a reset, which drops whatever `MAIN` was doing and keeps the configuration, the first thing
`MAIN` does is `SYS.START`, once; it enables interrupts and queues the banner `0D 0A 3E 5A 0D 0A` on the control channel
(`startPending` is the model's field, log 4). -/
def Obligations.StartupRunsFirstAndQueuesBanner : Prop :=
  (∀ s : State, ∃ t : State, exec .envReset s = .next t ∧ t.main = [] ∧ t.startPending = true ∧ t.cfg = s.cfg) ∧
  (∀ s : State, s.requests = [] → s.run = .running → s.main = [] → s.startPending = true → step s = exec .sysStart s) ∧
  (∀ s : State, s.wf → s.atRest → s.room .ch0 6 →
    exec .sysStart s =
      .next (afterEmitAll .ch0 [0x0D#8, 0x0A#8, 0x3E#8, 0x5A#8, 0x0D#8, 0x0A#8] { s with ie := true, startPending := false }))

/-! ### Steps, encodings -/

/-- A step runs the instruction its first request decodes to, the request removed. The queue of requests and what one step is
are the model's choices (log 2, 4, 19): 30_encoding R92 says only that a test harness can drive a unit alone by its code. -/
def Obligations.RequestStepRunsDecodedInstruction : Prop :=
  ∀ (s : State) (r : Request) (rest : List Request) (i : Instr),
    s.requests = r :: rest → decode r = .ok i → step s = exec i { s with requests := rest }

/-- The opcode table's words run as the instruction the decoder reads (the model's choice, log 3, 19). -/
def Obligations.TableWordRunsAsDecoded : Prop :=
  ∀ (s : State) (nbits w : Nat) (i : Instr),
    decodeTableWord nbits w = some i → step (s.withFetchWord nbits w) = exec i s

/-- 30_encoding R91: the 26 codes with their operands, and no other code. The operand bytes beside the code are the model's
layout (log 2): one byte each, and none for the fixed operand `c = 0` of code 0x40. -/
def Obligations.OperationCodesAreTheTable : Prop :=
  (∀ (q : Queue) (b : Byte), decode (.op [0x00#8, q.code, b]) = .ok (.rbPush q b)) ∧
  (∀ q : Queue, decode (.op [0x01#8, q.code]) = .ok (.rbPop q)) ∧
  (∀ q : Queue, decode (.op [0x02#8, q.code]) = .ok (.rbEmpty q)) ∧
  (∀ q : Queue, decode (.op [0x03#8, q.code]) = .ok (.rbFull q)) ∧
  (∀ (c : Channel) (b : Byte), decode (.op [0x04#8, (Queue.rx c).code, b]) = .ok (.rbPushd (.rx c) b)) ∧
  (∀ (c : Channel) (b : Byte), decode (.op [0x10#8, c.code, b]) = .ok (.chRxi c b)) ∧
  (∀ c : Channel, decode (.op [0x11#8, c.code]) = .ok (.chTxi c)) ∧
  (∀ (c : Channel) (b : Byte), decode (.op [0x12#8, c.code, b]) = .ok (.chTx c b)) ∧
  (∀ c : Channel, decode (.op [0x13#8, c.code]) = .ok (.chDrain c)) ∧
  (∀ c : Channel, decode (.op [0x20#8, c.code]) = .ok (.lfAppend c)) ∧
  (∀ c : Channel, decode (.op [0x21#8, c.code]) = .ok (.lfReset c)) ∧
  decode (.op [0x30#8]) = .ok .pmPoll ∧
  (∀ (p : Byte) (i : Pin), decode (.op [0x31#8, p, Pin.code i]) = .ok (.pmWatch p.toNat i)) ∧
  (∀ (p : Byte) (i : Pin), decode (.op [0x32#8, p, Pin.code i]) = .ok (.pmUnwatch p.toNat i)) ∧
  decode (.op [0x38#8]) = .ok .clkTick ∧
  decode (.op [0x40#8]) = .ok .cdDispatch ∧
  decode (.op [0x48#8]) = .ok .schA ∧
  (∀ k : Channel, k ≠ .ch0 → decode (.op [0x49#8, k.code]) = .ok (.schB k)) ∧
  decode (.op [0x4A#8]) = .ok .schC ∧
  decode (.op [0x50#8]) = .ok .sysStart ∧
  (∀ kind : FatalKind, decode (.op [0x51#8, kind.code]) = .ok (.sysFatal kind)) ∧
  decode (.op [0x52#8]) = .ok .sysCritEnter ∧
  (∀ saved : Bool, decode (.op [0x53#8, bitCode saved]) = .ok (.sysCritExit saved)) ∧
  (∀ (c : Channel) (b : Byte), decode (.op [0x58#8, c.code, b]) = .ok (.envRxbyte c b)) ∧
  (∀ c : Channel, decode (.op [0x59#8, c.code]) = .ok (.envTxrdy c)) ∧
  decode (.op [0x5A#8]) = .ok .envReset ∧
  (∀ (s : State) (op : Byte) (args : List Byte) (rest : List Request),
    op.toNat ∉ [0x00, 0x01, 0x02, 0x03, 0x04, 0x10, 0x11, 0x12, 0x13, 0x20, 0x21, 0x30, 0x31, 0x32, 0x38, 0x40, 0x48,
      0x49, 0x4A, 0x50, 0x51, 0x52, 0x53, 0x58, 0x59, 0x5A] →
    s.requests = .op (op :: args) :: rest → step s = .refused (.badRequest (.unknownCode op)))

/-- 30_encoding R95: format selection of a command line (its last sentence, on `Z` and `1` to `3`, is marked derived there), and
R97, R107 for the letter of a `G3` line. -/
def Obligations.LineFormatSelection : Prop :=
  decode (.line [0x5A#8]) = .ok .cmdZ ∧
  (∀ x xs, decode (.line (0x5A#8 :: x :: xs)) = .ok (.cmdUnk 0x5A#8 (x :: xs))) ∧
  (∀ xs, decode (.line (0x31#8 :: xs)) = .ok (.cmdFwd1 xs) ∧ decode (.line (0x32#8 :: xs)) = .ok (.cmdFwd2 xs) ∧
    decode (.line (0x33#8 :: xs)) = .ok (.cmdFwd3 xs)) ∧
  (∀ xs, decode (.line (0x48#8 :: xs)) = .ok (.cmdH xs) ∧ decode (.line (0x4C#8 :: xs)) = .ok (.cmdL xs) ∧
    decode (.line (0x55#8 :: xs)) = .ok (.cmdU xs) ∧ decode (.line (0x44#8 :: xs)) = .ok (.cmdD xs) ∧
    decode (.line (0x49#8 :: xs)) = .ok (.cmdI xs) ∧ decode (.line (0x41#8 :: xs)) = .ok (.cmdA xs) ∧
    decode (.line (0x4D#8 :: xs)) = .ok (.cmdM xs) ∧ decode (.line (0x4E#8 :: xs)) = .ok (.cmdN xs)) ∧
  (∀ op xs, op ∉ [0x31#8, 0x32#8, 0x33#8, 0x48#8, 0x4C#8, 0x55#8, 0x44#8, 0x49#8, 0x41#8, 0x4D#8, 0x4E#8, 0x5A#8] →
    decode (.line (op :: xs)) = .ok (.cmdUnk op xs))

/-- Decode and encode agree on every well-formed instruction: no operand bit is dropped. -/
def Obligations.DecodeEncodeRoundTrip : Prop := ∀ i : Instr, i.wf → decode (encode i) = .ok i

/-- An operation request has one meaning, and only well-formed instructions are decoded from one. -/
def Obligations.OperationRequestHasOneMeaning : Prop :=
  ∀ (bytes : List Byte) (i : Instr), decode (.op bytes) = .ok i → encode i = .op bytes ∧ i.wf

/-- A few words written out from the spec's codes and letters (95_test_vectors P1, P2, P4; 30_encoding R90, R91, R97); the operand
bytes beside a select code are the model's layout (log 2). -/
def Obligations.SampleWordsDecode : Prop :=
  decode (.op [0x58#8, 0x00#8, 0x41#8]) = .ok (.envRxbyte .ch0 0x41#8) ∧
  decode (.op [0x00#8, 0x05#8, 0x41#8]) = .ok (.rbPush (.tx .ch2) 0x41#8) ∧
  decode (.op [0x21#8, 0x03#8]) = .ok (.lfReset .ch3) ∧
  decode (.op [0x31#8, 0x02#8, 0x02#8]) = .ok (.pmWatch 2 2) ∧
  decode (.op [0x51#8, 0x05#8]) = .ok (.sysFatal .lineTooLong) ∧
  decode (.line [0x48#8, 0x41#8, 0x33#8]) = .ok (.cmdH [0x41#8, 0x33#8]) ∧
  decode (.line [0x31#8, 0x48#8, 0x69#8]) = .ok (.cmdFwd1 [0x48#8, 0x69#8])

/-- 30_encoding R103, 00_scope R14: `hex16` is four bytes, each an uppercase hex digit, most significant nibble first. -/
def Obligations.HexRenderingIsBigEndian : Prop :=
  ∀ v : Word16, ∃ d3 d2 d1 d0 : Nat,
    d3 < 16 ∧ d2 < 16 ∧ d1 < 16 ∧ d0 < 16 ∧ v.toNat = d3 * 4096 + d2 * 256 + d1 * 16 + d0 ∧
    (hex16 v).map BitVec.toNat =
      [d3, d2, d1, d0].map fun d => if d < 10 then 0x30 + d else 0x41 + d - 10

/-! ### Ring buffer -/

/-- 10_state R22: the fill count, empty, full; and the queued bytes from `rd` on, which R22 marks as derived from R134 and R135
and the model takes as the definition of `State.queued`. -/
def Obligations.RingCountInvariant : Prop :=
  ∀ (s : State) (q : Queue), s.wf →
    (s.count q : Int) = (((s.ring q).wr : Int) - ((s.ring q).rd : Int)) % (s.capacity q : Int) ∧
    s.count q ≤ s.capacity q - 1 ∧
    (s.count q = 0 ↔ (s.ring q).rd = (s.ring q).wr) ∧
    (s.count q = s.capacity q - 1 ↔ ((s.ring q).wr + 1) % s.capacity q = (s.ring q).rd) ∧
    s.queued q = (List.range (s.count q)).map
      (fun k => Memory.read (s.ring q).store (((s.ring q).rd + k) % s.capacity q))

/-- 40_ring_buffer R132, R133: empty when `rd = wr`; full when the next write index collides with `rd`, that is when
`RB.COUNT(q) = N - 1`. -/
def Obligations.RbEmptyAndFullAnswer : Prop :=
  ∀ (s : State) (q : Queue), s.wf → s.atRest →
    exec (.rbEmpty q) s = .next { s with ret := .bool (decide ((s.ring q).rd = (s.ring q).wr)) } ∧
    exec (.rbFull q) s =
      .next { s with ret := .bool (decide (((s.ring q).wr + 1) % s.capacity q = (s.ring q).rd)) } ∧
    (((s.ring q).wr + 1) % s.capacity q = (s.ring q).rd ↔ s.count q = s.capacity q - 1)

/-- 40_ring_buffer R134: a full buffer answers false and nothing changes; otherwise the byte is stored at `wr`, `wr` goes to
its successor, and the result is true. -/
def Obligations.RbPushStoresOrFails : Prop :=
  ∀ (s : State) (q : Queue) (b : Byte), s.wf → s.atRest →
    exec (.rbPush q b) s =
      .next (if ((s.ring q).wr + 1) % s.capacity q = (s.ring q).rd then { s with ret := .bool false }
        else (s.setRing q
          { store := Memory.write (s.ring q).store (s.ring q).wr b
            rd := (s.ring q).rd
            wr := ((s.ring q).wr + 1) % s.capacity q }).withRet (.bool true))

/-- 40_ring_buffer R135: an empty buffer answers `None` and nothing changes; otherwise the byte at `rd` is the result and
`rd` goes to its successor; the storage and `wr` are untouched. -/
def Obligations.RbPopTakesOldest : Prop :=
  ∀ (s : State) (q : Queue), s.wf → s.atRest →
    ((s.ring q).rd = (s.ring q).wr → exec (.rbPop q) s = .next { s with ret := .byte none }) ∧
    (∀ b : Byte, (s.ring q).rd ≠ (s.ring q).wr → Memory.read (s.ring q).store (s.ring q).rd = some b →
      exec (.rbPop q) s =
        .next ((s.setRing q
          { store := (s.ring q).store
            rd := ((s.ring q).rd + 1) % s.capacity q
            wr := (s.ring q).wr }).withRet (.byte (some b))))

/-- 40_ring_buffer R136: the drop-oldest push never fails; the byte is stored at `wr`, `wr` advances, and when the buffer
was full `rd` advances too, so that the queue is the old one without its oldest byte and with the new one at the end. -/
def Obligations.RbPushdDropsOldest : Prop :=
  ∀ (s : State) (q : Queue) (b : Byte) (bs : List Byte), s.wf → s.holds q bs →
    ∃ t : State, exec (.rbPushd q b) s = .next t ∧
      t = s.setRing q
        { store := Memory.write (s.ring q).store (s.ring q).wr b
          rd := if ((s.ring q).wr + 1) % s.capacity q = (s.ring q).rd then ((s.ring q).rd + 1) % s.capacity q
            else (s.ring q).rd
          wr := ((s.ring q).wr + 1) % s.capacity q } ∧
      t.holds q (if bs.length = s.capacity q - 1 then bs.tail ++ [b] else bs ++ [b])

/-- 40_ring_buffer R138: the FIFO law, and that the newest byte is the last one popped after a drop-oldest push. -/
def Obligations.FifoOrder : Prop :=
  (∀ (q : Queue) (ops : List FifoOp) (s t : State) (pushed popped : List Byte), s.wf → s.atRest →
    (s.ring q).rd = (s.ring q).wr → runFifo q ops s = some (pushed, popped, t) →
    ∃ left : List Byte, pushed = popped ++ left ∧ t.holds q left) ∧
  (∀ (c : Channel) (b : Byte) (bs : List Byte) (s : State), s.wf → s.atRest → s.holds (.rx c) bs →
    ∃ (t u : State) (popped : List Byte), exec (.rbPushd (.rx c) b) s = .next t ∧
      runFifo (.rx c) (List.replicate (t.count (.rx c)) .pop) t = some ([], popped, u) ∧
      popped.getLast? = some b)

/-- 70_reset R321, drops between the accesses s2 and s3 of a pop: after one the oldest byte is delivered and nothing is lost;
after two the second new byte is delivered and a full buffer suddenly reads as empty. -/
def Obligations.PopRacesDropOldest : Prop :=
  ∀ (s : State) (c : Channel) (x : Byte) (bs : List Byte), s.wf → s.run = .running → s.main = [] → s.ie = true →
    s.holds (.rx c) (x :: bs) → bs.length + 2 = s.capacity (.rx c) →
    (∀ b : Byte, s.env = [.main, .main, .rxByte c b] →
      ∃ t : State, exec (.rbPop (.rx c)) s = .next t ∧ t.ret = .byte (some x) ∧ t.holds (.rx c) (bs ++ [b])) ∧
    (∀ b1 b2 : Byte, s.env = [.main, .main, .rxByte c b1, .rxByte c b2] →
      ∃ t : State, exec (.rbPop (.rx c)) s = .next t ∧ t.ret = .byte (some b2) ∧ t.count (.rx c) = 0)

/-- 70_reset R322, stale emptiness: one drop between the two index reads of a pop makes it answer `None` and write nothing
although the buffer holds `N - 1` bytes. -/
def Obligations.StaleEmptinessDelaysOnly : Prop :=
  ∀ (s : State) (c : Channel) (b x : Byte) (bs : List Byte), s.wf → s.run = .running → s.main = [] → s.ie = true →
    s.env = [.main, .rxByte c b] → s.holds (.rx c) (x :: bs) → bs.length + 2 = s.capacity (.rx c) →
    ∃ t : State, exec (.rbPop (.rx c)) s = .next t ∧ t.ret = .byte none ∧ t.holds (.rx c) (bs ++ [b]) ∧
      t.count (.rx c) = t.capacity (.rx c) - 1

/-! ### Channel, interrupts, critical section -/

/-- 41_channel R152, R157: the receive handler pushes with drop-oldest; the event runs the handler to completion. -/
def Obligations.ReceiveInterruptQueuesByte : Prop :=
  ∀ (s : State) (c : Channel) (b : Byte), s.wf → s.ie = true →
    ∃ t : State, exec (.chRxi c b) s = .next t ∧ exec (.envRxbyte c b) s = .next t ∧
      t = s.setRing (.rx c)
        { store := Memory.write (s.ring (.rx c)).store (s.ring (.rx c)).wr b
          rd := if ((s.ring (.rx c)).wr + 1) % s.capacity (.rx c) = (s.ring (.rx c)).rd
            then ((s.ring (.rx c)).rd + 1) % s.capacity (.rx c) else (s.ring (.rx c)).rd
          wr := ((s.ring (.rx c)).wr + 1) % s.capacity (.rx c) }

/-- 60_exceptions R281 (log 5, 17 for "changes nothing"): no handler starts while `I = 0` or a handler is active, and
`TXI[c]` not without its enable and a ready transmitter. -/
def Obligations.InterruptsNotTakenWhenMasked : Prop :=
  ∀ (s : State) (c : Channel) (b : Byte),
    ((s.ie = false ∨ s.isrActive = true) →
      exec (.chRxi c b) s = .next s ∧ exec (.envRxbyte c b) s = .next s ∧ exec .clkTick s = .next s) ∧
    ((s.ie = false ∨ s.isrActive = true ∨ s.txIrqEn.get c = false ∨ s.txReady.get c = false) →
      exec (.chTxi c) s = .next s)

/-- 41_channel R153: the transmit handler sends the oldest queued byte, or disables its interrupt on an empty buffer. -/
def Obligations.TransmitInterruptSendsOrDisables : Prop :=
  ∀ (s : State) (c : Channel), s.wf → s.ie = true → s.txIrqEn.get c = true → s.txReady.get c = true →
    ((s.ring (.tx c)).rd = (s.ring (.tx c)).wr →
      exec (.chTxi c) s = .next { s with txIrqEn := s.txIrqEn.set c false }) ∧
    (∀ x : Byte, (s.ring (.tx c)).rd ≠ (s.ring (.tx c)).wr →
      Memory.read (s.ring (.tx c)).store (s.ring (.tx c)).rd = some x →
      exec (.chTxi c) s =
        .next { s.setRing (.tx c)
            { store := (s.ring (.tx c)).store
              rd := ((s.ring (.tx c)).rd + 1) % s.capacity (.tx c)
              wr := (s.ring (.tx c)).wr } with
          wireOut := s.wireOut.set c (s.wireOut.get c ++ [x])
          txReady := s.txReady.set c false })

/-- 41_channel R154 with `I = 1`: with room the byte is queued and the transmit interrupt enabled; a full buffer is waited
for (the wait is a state, log 8). -/
def Obligations.TransmitQueuesOrWaits : Prop :=
  ∀ (s : State) (c : Channel) (b : Byte), s.wf → s.atRest → s.ie = true →
    (((s.ring (.tx c)).wr + 1) % s.capacity (.tx c) ≠ (s.ring (.tx c)).rd →
      exec (.chTx c b) s =
        .next { s.setRing (.tx c)
            { store := Memory.write (s.ring (.tx c)).store (s.ring (.tx c)).wr b
              rd := (s.ring (.tx c)).rd
              wr := ((s.ring (.tx c)).wr + 1) % s.capacity (.tx c) } with
          txIrqEn := s.txIrqEn.set c true
          ret := .bool true }) ∧
    (((s.ring (.tx c)).wr + 1) % s.capacity (.tx c) = (s.ring (.tx c)).rd →
      exec (.chTx c b) s = .next { s with main := [.txWait c b] })

/-- 41_channel R154: a transmit that has waited on a full buffer for any number of accesses goes on once `TXI[c]` has freed a
slot (a family of schedules: `n` accesses of `MAIN`, then the handler). -/
def Obligations.BackpressureIsLiftedByTransmitInterrupt : Prop :=
  ∀ (s : State) (c : Channel) (b x : Byte) (bs : List Byte) (n : Nat), s.wf → s.run = .running → s.main = [] → s.ie = true →
    s.env = List.replicate n .main ++ [.txi c] → s.txIrqEn.get c = true → s.txReady.get c = true →
    s.holds (.tx c) (x :: bs) → bs.length + 2 = s.capacity (.tx c) →
    ∃ t : State, exec (.chTx c b) s = .next t ∧ t.main = [] ∧ t.holds (.tx c) (bs ++ [b]) ∧
      t.wireOut.get c = s.wireOut.get c ++ [x] ∧ t.txIrqEn.get c = true

/-- 41_channel R154 with `I = 0`: whatever the environment does short of a reset, a transmit that completes has put the
queued bytes and then its own on the wire, in the order of the calls, and left the buffer empty. -/
def Obligations.SynchronousTransmitKeepsCallOrder : Prop :=
  ∀ (s t : State) (c : Channel) (b : Byte) (bs : List Byte), s.wf → s.run = .running → s.main = [] → s.ie = false →
    s.holds (.tx c) bs → (∀ e ∈ s.env, e ≠ .reset) → exec (.chTx c b) s = .next t → t.main = [] →
    t.wireOut.get c = s.wireOut.get c ++ bs ++ [b] ∧ (t.ring (.tx c)).rd = (t.ring (.tx c)).wr ∧
      t.txIrqEn = s.txIrqEn ∧ t.ie = false ∧ (∀ d, d ≠ c → t.wireOut.get d = s.wireOut.get d)

/-- 41_channel R155: an empty buffer makes the drain a no-op; with the transmitter not ready the drain stands at its wait d2,
interrupts off; a buffer holding bytes is sent whole when the transmitter becomes ready before each access (fairness R158 as
a schedule), and `I` is restored. -/
def Obligations.DrainSendsWholeBuffer : Prop :=
  (∀ (s : State) (c : Channel), s.atRest → (s.ring (.tx c)).rd = (s.ring (.tx c)).wr →
    exec (.chDrain c) s = .next { s with ret := .bool true }) ∧
  (∀ (s : State) (c : Channel), s.atRest → (s.ring (.tx c)).rd ≠ (s.ring (.tx c)).wr → s.txReady.get c = false →
    exec (.chDrain c) s =
      .next { s with ie := false, ret := .bool false, main := [.drainWait c, .call (.sysCritExit s.ie)] }) ∧
  (∀ (s : State) (c : Channel) (n : Nat) (bs : List Byte), s.wf → s.run = .running → s.main = [] →
    s.env = readySchedule c n → 20 * (bs.length + 1) ≤ n → s.holds (.tx c) bs →
    ∃ t : State, exec (.chDrain c) s = .next t ∧
      t = { s with tx := s.tx.set c { s.tx.get c with rd := (s.tx.get c).wr }
                   wireOut := s.wireOut.set c (s.wireOut.get c ++ bs)
                   txReady := s.txReady.set c (t.txReady.get c), env := t.env, ret := t.ret })

/-- 41_channel R156: no turn of the schedule but a reset can strand a queued byte: a handler disables the transmit interrupt
only on an empty buffer. -/
def Obligations.HandlersNeverStrandQueuedBytes : Prop :=
  ∀ (e : Turn) (s t : State) (c : Channel), s.wf → e ≠ .reset → deliver e s = .next t →
    (s.count (.tx c) = 0 ∨ s.txIrqEn.get c = true) → (t.count (.tx c) = 0 ∨ t.txIrqEn.get c = true)

/-- 41_channel R158: the transmitter becomes ready; an event not enabled changes nothing. -/
def Obligations.TransmitterReadyEvent : Prop :=
  ∀ (s : State) (c : Channel), exec (.envTxrdy c) s = .next { s with txReady := s.txReady.set c true }

/-- 60_exceptions R297, R298, the pseudocode of each: entry returns `I` and clears it, exit writes the saved value. -/
def Obligations.CriticalSectionSavesAndRestores : Prop :=
  ∀ s : State, s.atRest →
    exec .sysCritEnter s = .next { s with ie := false, ret := .saved s.ie } ∧
    ∀ saved : Bool, exec (.sysCritExit saved) s = .next { s with ie := saved }

/-- 20_memory R72, 60_exceptions R282, R290: a turn of the schedule other than a reset, handlers included, writes none of the
fields `MAIN` owns. -/
def Obligations.HandlersKeepMainsState : Prop :=
  ∀ (e : Turn) (s t : State), s.wf → e ≠ .reset → deliver e s = .next t →
    t.cfg = s.cfg ∧ t.lf = s.lf ∧ t.mask = s.mask ∧ t.last = s.last ∧ t.lastNotify = s.lastNotify ∧
    t.lastPoll = s.lastPoll ∧ t.ie = s.ie ∧ t.run = s.run ∧ t.wdtArmed = s.wdtArmed ∧ t.schedPhase = s.schedPhase ∧
    t.isrActive = false ∧ t.drvLog = s.drvLog ∧ t.main = s.main ∧ t.ret = s.ret ∧ t.startPending = s.startPending ∧
    (∀ c, (t.ring (.tx c)).wr = (s.ring (.tx c)).wr ∧ (t.ring (.tx c)).store = (s.ring (.tx c)).store)

/-! ### Line Framer -/

/-- 42_line_framer R173: `len` and `ready` cleared, the storage kept, nothing else changed. -/
def Obligations.LineResetClearsLenAndReady : Prop :=
  ∀ (s : State) (c : Channel), s.atRest →
    exec (.lfReset c) s = .next { s with lf := s.lf.set c { line := (s.lf.get c).line, len := 0, ready := false } }

/-- 42_line_framer R171, R172, R174, and R176, the framing law. From a framer that is not ready and holds `part` (`IDLE`: nothing;
`ACCUM`: a partial line, which this call continues, R172 corner case 2): the line is `framedLine part u`, what is behind its
terminator stays queued, and without a terminator the line so far is kept; nothing but `rx[c].rd`, `lf[c]` and the returned
value changes. A line of `L` bytes is fatal, its `L` bytes stored and no byte behind them popped. Called with a ready line it
pops nothing (R172 corner case 1). -/
def Obligations.AppendFramesOneLine : Prop :=
  (∀ (s : State) (c : Channel), s.atRest → (s.lf.get c).ready = true → exec (.lfAppend c) s = .next s) ∧
  (∀ (s : State) (c : Channel) (part u : List Byte), s.wf → s.atRest → (s.lf.get c).ready = false →
    lineOf c s = .ok part → s.holds (.rx c) u →
    ((framedLine part u).length < s.cfg.lineCap →
      ∃ t : State, exec (.lfAppend c) s = .next t ∧
        t = ((s.setRd (.rx c) (t.ring (.rx c)).rd).setLf c (t.lf.get c)).withRet t.ret ∧
        (t.lf.get c).len = (framedLine part u).length ∧ lineOf c t = .ok (framedLine part u) ∧
        ((t.lf.get c).ready = true ↔ behindLine part u ≠ []) ∧ t.holds (.rx c) (behindLine part u).tail ∧
        ∀ k, (framedLine part u).length ≤ k → Memory.read (t.lf.get c).line k = Memory.read (s.lf.get c).line k) ∧
    (part.length < s.cfg.lineCap → s.cfg.lineCap ≤ (framedLine part u).length → (∃ w, s.holds (.tx .ch0) w) →
      ∃ t : State, exec (.lfAppend c) s = .next t ∧ t.inFatal .lineTooLong ∧
        (t.lf.get c).len = s.cfg.lineCap ∧ lineOf c t = .ok ((framedLine part u).take s.cfg.lineCap) ∧
        t.holds (.rx c) ((pastLeading part u).drop (s.cfg.lineCap - part.length)) ∧
        (∀ d, d ≠ c → t.lf.get d = s.lf.get d) ∧ ∀ q, q ≠ .rx c → q ≠ .tx .ch0 → t.ring q = s.ring q))

/-! ### Port Monitor and clock -/

/-- 43_port_monitor R191, R192: the pin's bit is set, or cleared, in the mask of its port and nothing else changes; a port
index not below `P` is refused (93 U7). -/
def Obligations.WatchAndUnwatchChangeMaskBit : Prop :=
  ∀ (s : State) (p : Nat) (i : Pin), s.wf → s.atRest →
    (p < s.cfg.numPorts →
      (∃ m : Byte, exec (.pmWatch p i) s = .next { s with mask := s.mask.set p m } ∧
        ∀ j : Pin, m.getLsbD j.val = ((s.maskOf p).getLsbD j.val || j == i)) ∧
      (∃ m : Byte, exec (.pmUnwatch p i) s = .next { s with mask := s.mask.set p m } ∧
        ∀ j : Pin, m.getLsbD j.val = ((s.maskOf p).getLsbD j.val && j != i))) ∧
    (s.cfg.numPorts ≤ p →
      exec (.pmWatch p i) s = .refused (.portOutOfRange p) ∧ exec (.pmUnwatch p i) s = .refused (.portOutOfRange p))

/-- 43_port_monitor R193: every watched pin whose level changed is reported, in the order of ports and pins; every port's
sample is the new last value; the time stamp is written when something is reported. (The samples stand in `drv_log`,
log 13.) -/
def Obligations.PollReportsChangesAndSamples : Prop :=
  ∀ (s : State) (bs : List Byte), s.wf → s.atRest → s.ie = true → s.holds (.tx .ch0) bs →
    s.room .ch0 s.pollReport.length →
    ∃ t : State, exec .pmPoll s = .next t ∧ t.holds (.tx .ch0) (bs ++ s.pollReport) ∧ t.last = s.pinIn ∧
      t.lastNotify = (if s.pollReport = [] then s.lastNotify else s.msClock) ∧
      t.txIrqEn = (if s.pollReport = [] then s.txIrqEn else s.txIrqEn.set .ch0 true) ∧
      t.drvLog = s.drvLog ++ (List.range s.cfg.numPorts).map .sample ∧
      t = { s with tx := s.tx.set .ch0 t.tx.c0, txIrqEn := t.txIrqEn, last := t.last, lastNotify := t.lastNotify,
                   drvLog := t.drvLog, ret := t.ret } ∧
      t.tx.c0.rd = s.tx.c0.rd ∧ t.sameTxBut .ch0 s.pollReport.length s

/-- 43_port_monitor R196: the elapsed ticks are the unsigned difference modulo 256; and 70_reset R325 (which the spec marks as
derived): a poll found due is never early. -/
def Obligations.PollDueByUnsignedDifference : Prop :=
  (∀ now lastPoll : Byte, pollDue now lastPoll = true ↔ 20 ≤ (now.toNat + 256 - lastPoll.toNat) % 256) ∧
  (∀ (lastPoll : Byte) (elapsed : Nat), pollDue (BitVec.ofNat 8 (lastPoll.toNat + elapsed)) lastPoll = true → 20 ≤ elapsed)

/-- 43_port_monitor R197: the clock advances modulo 256 and nothing else changes. That the operation, requested while its handler
may not start, changes nothing is log 17 (DEDUCED), from R197's "not counted" and 60_exceptions R281. -/
def Obligations.TickAdvancesClock : Prop :=
  ∀ s : State,
    (s.ie = true → s.isrActive = false →
      exec .clkTick s = .next { s with msClock := BitVec.ofNat 8 ((s.msClock.toNat + 1) % 256) }) ∧
    (s.ie = false ∨ s.isrActive = true → exec .clkTick s = .next s)

/-! ### Scheduler -/

/-- 45_scheduler R251: `SCH.A` drains the control channel, dispatches the line it completes and resets the framer; here a
queued `H` command, end to end (95_test_vectors P2). -/
def Obligations.SchARunsOneCommand : Prop :=
  ∀ (s : State) (port pin : Byte) (p : Nat) (i : Pin) (more bs : List Byte), s.wf → s.atRest → s.ie = true →
    (s.lf.get .ch0).len = 0 → (s.lf.get .ch0).ready = false →
    s.holds (.rx .ch0) ([0x48#8, port, pin, 0x0D#8] ++ more) → s.holds (.tx .ch0) bs → s.room .ch0 6 →
    port ≠ 0x0D#8 → port ≠ 0x0A#8 → portIndex s.cfg port = some p → pinIndex pin = some i →
    ∃ t : State, exec .schA s = .next t ∧
      t.holds (.tx .ch0) (bs ++ [0x3E#8, 0x48#8, port, pin, 0x0D#8, 0x0A#8]) ∧ t.holds (.rx .ch0) more ∧
      (t.lf.get .ch0).len = 0 ∧ (t.lf.get .ch0).ready = false ∧
      t = { s with rx := s.rx.set .ch0 { s.rx.c0 with rd := t.rx.c0.rd }, tx := s.tx.set .ch0 t.tx.c0
                   txIrqEn := s.txIrqEn.set .ch0 true, lf := s.lf.set .ch0 t.lf.c0
                   drvLog := s.drvLog ++ [.outputHigh p i], ret := t.ret } ∧
      t.tx.c0.rd = s.tx.c0.rd ∧ t.sameTxBut .ch0 6 s ∧
      ∀ k, 3 ≤ k → Memory.read t.lf.c0.line k = Memory.read s.lf.c0.line k

/-- 45_scheduler R252: `SCH.B(k)` drains `rx[k]` into the framer and forwards the line that this completes, with its channel digit
and CRLF, resets the framer and leaves the bytes behind queued, whether the framer was idle or held a partial line `part`;
without a complete line, or with one too long, it is `LF.APPEND(k)`. A line that is already ready, which R172 (1) says the
Scheduler never meets, is forwarded too; with nothing received and no line ready only the returned value changes. -/
def Obligations.SchBForwardsReadyLine : Prop :=
  ∀ (s : State) (k : Channel) (bytes : List Byte), s.wf → s.atRest → k ≠ .ch0 →
    (∀ part u bs : List Byte, (s.lf.get k).ready = false → lineOf k s = .ok part → s.holds (.rx k) u →
      s.holds (.tx .ch0) bs →
      (behindLine part u ≠ [] → (framedLine part u).length < s.cfg.lineCap → s.ie = true →
        s.room .ch0 ((framedLine part u).length + 3) →
        ∃ t : State, exec (.schB k) s = .next t ∧
          t.holds (.tx .ch0) (bs ++ [BitVec.ofNat 8 (0x30 + k.index)] ++ framedLine part u ++ [0x0D#8, 0x0A#8]) ∧
          t.holds (.rx k) (behindLine part u).tail ∧ (t.lf.get k).len = 0 ∧ (t.lf.get k).ready = false ∧
          t = { s with rx := s.rx.set k { s.rx.get k with rd := (t.rx.get k).rd }, tx := s.tx.set .ch0 t.tx.c0
                       txIrqEn := s.txIrqEn.set .ch0 true, lf := s.lf.set k (t.lf.get k), ret := t.ret } ∧
          t.tx.c0.rd = s.tx.c0.rd ∧ t.sameTxBut .ch0 ((framedLine part u).length + 3) s ∧
          (∀ j, j < (framedLine part u).length → Memory.read (t.lf.get k).line j = (framedLine part u)[j]?) ∧
          ∀ j, (framedLine part u).length ≤ j → Memory.read (t.lf.get k).line j = Memory.read (s.lf.get k).line j) ∧
      ((behindLine part u = [] ∨ s.cfg.lineCap ≤ (framedLine part u).length) → part.length < s.cfg.lineCap →
        ∃ t : State, exec (.lfAppend k) s = .next t ∧ exec (.schB k) s = .next t ∧
          (s.cfg.lineCap ≤ (framedLine part u).length → t.inFatal .lineTooLong))) ∧
    ((s.lf.get k).ready = true → s.ie = true → lineOf k s = .ok bytes → s.room .ch0 (bytes.length + 3) →
      exec (.schB k) s =
        .next ((afterEmitAll .ch0 ([BitVec.ofNat 8 (0x30 + k.index)] ++ bytes ++ [0x0D#8, 0x0A#8]) s).setLf k
          { line := (s.lf.get k).line, len := 0, ready := false })) ∧
    ((s.lf.get k).ready = false → (s.ring (.rx k)).rd = (s.ring (.rx k)).wr →
      exec (.schB k) s = .next { s with ret := .byte none })

/-- 45_scheduler R253: not due, nothing happens; due, `last_poll` takes the clock value read and the monitor polls. -/
def Obligations.SchCPollsWhenDue : Prop :=
  ∀ (s : State) (bs : List Byte), s.wf → s.atRest →
    ((s.msClock - s.lastPoll).toNat < 20 → exec .schC s = .next s) ∧
    (20 ≤ (s.msClock - s.lastPoll).toNat → s.ie = true → s.holds (.tx .ch0) bs → s.room .ch0 s.pollReport.length →
      ∃ t : State, exec .schC s = .next t ∧ t.lastPoll = s.msClock ∧ t.last = s.pinIn ∧
        t.holds (.tx .ch0) (bs ++ s.pollReport) ∧
        t = { s with tx := s.tx.set .ch0 t.tx.c0, txIrqEn := t.txIrqEn, last := t.last, lastPoll := t.lastPoll,
                     lastNotify := t.lastNotify, drvLog := t.drvLog, ret := t.ret } ∧
        t.tx.c0.rd = s.tx.c0.rd ∧ t.sameTxBut .ch0 s.pollReport.length s)

/-- 45_scheduler R254: the loop runs the step named by `sched_phase` and then advances the phase in the cycle
`A, B1, B2, B3, C`; a step that stops `MAIN` (`ResetWait`, `Halted`) leaves the phase, and no further step runs. That one step
of the machine is one Scheduler step with its advance is the model's choice (log 19). -/
def Obligations.PhaseAdvancesAfterItsStep : Prop :=
  ∀ (s t : State), s.wf → s.atRest → s.requests = [] → s.startPending = false →
    exec (match s.schedPhase with
      | .a => .schA
      | .b1 => .schB .ch1
      | .b2 => .schB .ch2
      | .b3 => .schB .ch3
      | .c => .schC) s = .next t →
    (t.run = .running → t.main = [] →
      step s = .next { t with schedPhase := (match s.schedPhase with
        | .a => .b1
        | .b1 => .b2
        | .b2 => .b3
        | .b3 => .c
        | .c => .a) }) ∧
    (t.run ≠ .running → step s = .next t ∧ t.schedPhase = s.schedPhase ∧ step t = .next t)

/-! ### Commands -/

/-- 44_dispatcher R215 to R218: the driver action, then the response, for a valid port letter and pin digit. Bytes after
the third are ignored. -/
def Obligations.PinCommandsActAndRespond : Prop :=
  ∀ (s : State) (port pin : Byte) (more : List Byte) (p : Nat) (i : Pin), s.wf → s.atRest → s.ie = true → s.room .ch0 6 →
    portIndex s.cfg port = some p → pinIndex pin = some i →
    exec (.cmdH (port :: pin :: more)) s =
      .next (afterEmitAll .ch0 [0x3E#8, 0x48#8, port, pin, 0x0D#8, 0x0A#8] (s.logDrv (.outputHigh p i))) ∧
    exec (.cmdL (port :: pin :: more)) s =
      .next (afterEmitAll .ch0 [0x3E#8, 0x4C#8, port, pin, 0x0D#8, 0x0A#8] (s.logDrv (.outputLow p i))) ∧
    exec (.cmdU (port :: pin :: more)) s =
      .next (afterEmitAll .ch0 [0x3E#8, 0x55#8, port, pin, 0x0D#8, 0x0A#8] (s.logDrv (.inputPullup p i))) ∧
    exec (.cmdD (port :: pin :: more)) s =
      .next (afterEmitAll .ch0 [0x3E#8, 0x44#8, port, pin, 0x0D#8, 0x0A#8] (s.logDrv (.inputNopull p i)))

/-- 44_dispatcher R219, 10_state R42: the value is the pin's bit in place, 0 or `2^i`. -/
def Obligations.DigitalReadReportsPinBit : Prop :=
  ∀ (s : State) (port pin : Byte) (more : List Byte) (p : Nat) (i : Pin), s.wf → s.atRest → s.ie = true →
    s.room .ch0 10 → portIndex s.cfg port = some p → pinIndex pin = some i →
    exec (.cmdI (port :: pin :: more)) s =
      .next (afterEmitAll .ch0
        ([0x3E#8, 0x49#8, port, pin] ++
          hex16 (if (s.pinsOf p).getLsbD i.val then BitVec.ofNat 16 (2 ^ i.val) else 0#16) ++ [0x0D#8, 0x0A#8])
        (s.logDrv (.readPin p i)))

/-- 44_dispatcher R220: on an analog-capable port the sample is reported: the draw the environment has decided, or, where it
has decided none, a free value (log 11; the statement holds for every value of it); on another port the command is fatal. -/
def Obligations.AnalogReadReportsSample : Prop :=
  ∀ (s : State) (port pin : Byte) (more : List Byte) (p : Nat) (i : Pin), s.wf → s.atRest →
    portIndex s.cfg port = some p → pinIndex pin = some i →
    (port ∈ s.cfg.analogPorts → s.ie = true → s.room .ch0 10 →
      ∃ (v : Word16) (u : State), exec (.cmdA (port :: pin :: more)) s =
          .next (afterEmitAll .ch0 ([0x3E#8, 0x41#8, port, pin] ++ hex16 v ++ [0x0D#8, 0x0A#8]) (u.logDrv (.readAnalog p i))) ∧
        u = { s with adcIn := u.adcIn, draws := u.draws } ∧
        (∀ x xs, s.adcIn = x :: xs → v = x ∧ u.adcIn = xs)) ∧
    (port ∉ s.cfg.analogPorts → (∃ w, s.holds (.tx .ch0) w) →
      ∃ t : State, exec (.cmdA (port :: pin :: more)) s = .next t ∧ t.inFatal .badAnalogPort ∧ t.drvLog = s.drvLog)

/-- 44_dispatcher R221, R222: the watch mask changes in the pin's bit, the response follows, no notification. -/
def Obligations.WatchCommandsUpdateMask : Prop :=
  ∀ (s : State) (port pin : Byte) (more : List Byte) (p : Nat) (i : Pin), s.wf → s.atRest → s.ie = true → s.room .ch0 6 →
    portIndex s.cfg port = some p → pinIndex pin = some i →
    exec (.cmdM (port :: pin :: more)) s =
      .next (afterEmitAll .ch0 [0x3E#8, 0x4D#8, port, pin, 0x0D#8, 0x0A#8]
        { s with mask := s.mask.set p (s.maskOf p ||| (1#8 <<< i.val)) }) ∧
    exec (.cmdN (port :: pin :: more)) s =
      .next (afterEmitAll .ch0 [0x3E#8, 0x4E#8, port, pin, 0x0D#8, 0x0A#8]
        { s with mask := s.mask.set p (s.maskOf p &&& ~~~ (1#8 <<< i.val)) })

/-- 44_dispatcher R223, 30_encoding R107: an unknown code is echoed without action; the port letter is not resolved. -/
def Obligations.UnknownCommandIsEchoed : Prop :=
  ∀ (s : State) (op port pin : Byte) (more : List Byte) (i : Pin), s.wf → s.atRest → s.ie = true → s.room .ch0 6 →
    pinIndex pin = some i →
    exec (.cmdUnk op (port :: pin :: more)) s =
      .next (afterEmitAll .ch0 [0x3E#8, op, port, pin, 0x0D#8, 0x0A#8] s)

/-- 44_dispatcher R213: payload and CRLF on the auxiliary channel of the digit, then `>`, the whole line and CRLF on the
control channel; an empty payload is fatal. -/
def Obligations.ForwardSendsPayloadAndEcho : Prop :=
  ∀ (s : State) (payload : List Byte), s.wf → s.atRest →
    (payload ≠ [] → payload.length + 1 < s.cfg.lineCap → s.ie = true → s.room .ch0 (payload.length + 4) →
      (s.room .ch1 (payload.length + 2) → exec (.cmdFwd1 payload) s =
        .next (afterEmitAll .ch0 ([0x3E#8, 0x31#8] ++ payload ++ [0x0D#8, 0x0A#8])
          (afterEmitAll .ch1 (payload ++ [0x0D#8, 0x0A#8]) s))) ∧
      (s.room .ch2 (payload.length + 2) → exec (.cmdFwd2 payload) s =
        .next (afterEmitAll .ch0 ([0x3E#8, 0x32#8] ++ payload ++ [0x0D#8, 0x0A#8])
          (afterEmitAll .ch2 (payload ++ [0x0D#8, 0x0A#8]) s))) ∧
      (s.room .ch3 (payload.length + 2) → exec (.cmdFwd3 payload) s =
        .next (afterEmitAll .ch0 ([0x3E#8, 0x33#8] ++ payload ++ [0x0D#8, 0x0A#8])
          (afterEmitAll .ch3 (payload ++ [0x0D#8, 0x0A#8]) s)))) ∧
    ((∃ w, s.holds (.tx .ch0) w) → ∀ i ∈ [Instr.cmdFwd1 [], .cmdFwd2 [], .cmdFwd3 []],
      ∃ t : State, exec i s = .next t ∧ t.inFatal .emptyPayload)

/-- What a queued line is: after `emit_all` the bytes stand at the end of the queue, in order, and the transmit interrupt is
enabled (41_channel R154, 20_memory R61). -/
def Obligations.EmittedBytesQueueInOrder : Prop :=
  ∀ (s : State) (c : Channel) (bs more : List Byte), s.wf → s.holds (.tx c) bs → s.room c more.length → more ≠ [] →
    (afterEmitAll c more s).holds (.tx c) (bs ++ more) ∧ (afterEmitAll c more s).txIrqEn = s.txIrqEn.set c true ∧
    (∀ q, q ≠ .tx c → (afterEmitAll c more s).ring q = s.ring q) ∧ (afterEmitAll c more s).wf

/-- 44_dispatcher R212: the watchdog is armed, `MAIN` stops, nothing is answered and nothing else changes. -/
def Obligations.ResetCommandStopsMain : Prop :=
  ∀ s : State, s.atRest → exec .cmdZ s = .next { s with wdtArmed := true, run := .resetWait }

/-- 30_encoding R112, 60_exceptions R273: the fatal conditions of a `G3` line in their order (length, pin digit, port
letter), each before any driver action or change of a mask; an unknown code, `Z` in a longer line among them (44_dispatcher
R223), raises only the first two. -/
def Obligations.IllegalCommandsAreFatal : Prop :=
  ∀ (s : State) (op : Byte) (args w : List Byte), s.wf → s.atRest → s.holds (.tx .ch0) w →
    ∀ i ∈ [Instr.cmdH args, .cmdL args, .cmdU args, .cmdD args, .cmdI args, .cmdA args, .cmdM args, .cmdN args,
        .cmdUnk op args],
      (args.length < 2 →
        ∃ t : State, exec i s = .next t ∧ t.inFatal .lineTooShort ∧ t.drvLog = s.drvLog ∧ t.mask = s.mask) ∧
      (∀ port pin more, args = port :: pin :: more → ¬ (0x30 ≤ pin.toNat ∧ pin.toNat ≤ 0x37) →
        ∃ t : State, exec i s = .next t ∧ t.inFatal .pinRange ∧ t.drvLog = s.drvLog ∧ t.mask = s.mask) ∧
      (∀ port pin more, args = port :: pin :: more → 0x30 ≤ pin.toNat → pin.toNat ≤ 0x37 → port ∉ s.cfg.ports →
        i ≠ .cmdUnk op args →
        ∃ t : State, exec i s = .next t ∧ t.inFatal .badPort ∧ t.drvLog = s.drvLog ∧ t.mask = s.mask)

/-- 44_dispatcher R211: `CD.DISPATCH` runs the command the ready line decodes to, with the same outcome, if the command
settles within the turns a step may take (log 7); the `Z` line as an instance; without a ready line it is refused (42_line_framer R175, 93 U5). -/
def Obligations.DispatchRunsTheReadyLine : Prop :=
  (∀ (s t : State) (bytes : List Byte) (i : Instr) (n : Nat), s.atRest → (s.lf.get .ch0).ready = true →
    lineOf .ch0 s = .ok bytes → decode (.line bytes) = .ok i → n < s.budget →
    runTurns n (s.setMain [.call i]) = .next t → t.settled = true →
    exec i s = .next t ∧ exec .cdDispatch s = .next t) ∧
  (∀ s : State, s.atRest → (s.lf.get .ch0).ready = true → lineOf .ch0 s = .ok [0x5A#8] →
    exec .cdDispatch s = .next { s with wdtArmed := true, run := .resetWait }) ∧
  (∀ s : State, s.atRest → (s.lf.get .ch0).ready = false → exec .cdDispatch s = .refused .lineNotReady)

/-! ### Fatal errors -/

/-- 60_exceptions R274: `SYS.FATAL(kind)`, the transmitter of the control channel made ready before each access (R158 as a
schedule): interrupts off, the bytes already queued and then the diagnostic on the wire in order, the watchdog armed if
`FATAL_ACTION = watchdog`, `run = Halted(kind)`; the other channels, the framers and the monitor untouched, and of the storage
of `tx[0]` only the slots the diagnostic is pushed to. -/
def Obligations.FatalReportsAndHalts : Prop :=
  ∀ (s : State) (kind : FatalKind) (bs : List Byte) (n : Nat), s.wf → s.run = .running → s.main = [] →
    s.holds (.tx .ch0) bs → s.env = readySchedule .ch0 n → 50 * (s.capacity (.tx .ch0) + (diagnostic s.cfg kind).length) ≤ n →
    ∃ t : State, exec (.sysFatal kind) s = .next t ∧ t.tx.c0.rd = t.tx.c0.wr ∧
      t.tx.c0.wr = (s.tx.c0.wr + (diagnostic s.cfg kind).length) % s.capacity (.tx .ch0) ∧
      t.sameTxBut .ch0 (diagnostic s.cfg kind).length s ∧
      t = { s with ie := false, run := .halted kind, main := []
                   wireOut := s.wireOut.set .ch0 (s.wireOut.c0 ++ bs ++
                     ([0x45#8, 0x52#8, 0x52#8, 0x4F#8, 0x52#8, 0x20#8] ++ hex16 (s.cfg.fatalCode.get kind) ++ [0x20#8] ++
                       s.cfg.fatalMsg.get kind ++ [0x0D#8, 0x0A#8]))
                   wdtArmed := s.wdtArmed || s.cfg.fatalAction == .watchdog
                   tx := s.tx.set .ch0 t.tx.c0, txReady := s.txReady.set .ch0 t.txReady.c0, env := t.env, ret := t.ret }

/-- 60_exceptions R274: on detection, whatever the transmitter does: interrupts are off and h4 lies ahead or is done; what
`MAIN` was to do otherwise is gone. Of `tx[0]` only the `m` slots from the old `wr` on are stored to, `m` bytes of the
diagnostic having been pushed so far. -/
def Obligations.FatalEntryDisablesInterrupts : Prop :=
  ∀ (s : State) (kind : FatalKind) (w : List Byte), s.wf → s.atRest → s.holds (.tx .ch0) w →
    ∃ t : State, exec (.sysFatal kind) s = .next t ∧ t.inFatal kind ∧ t.fatalUnderway kind ∧
      t = { s with ie := false, run := t.run, main := t.main, wdtArmed := t.wdtArmed, ret := t.ret
                   tx := s.tx.set .ch0 t.tx.c0, txReady := s.txReady.set .ch0 t.txReady.c0
                   wireOut := s.wireOut.set .ch0 t.wireOut.c0 } ∧
      ∃ m ≤ (diagnostic s.cfg kind).length, t.tx.c0.wr = (s.tx.c0.wr + m) % s.capacity (.tx .ch0) ∧ t.sameTxBut .ch0 m s

/-- 60_exceptions R277: a fatal error cannot nest and is not left but by a reset: from every state in which one is under
way, a step with no reset leaves the same one under way. -/
def Obligations.FatalIsNotLeft : Prop :=
  ∀ (s t : State) (kind : FatalKind), s.fatalUnderway kind → (∀ e ∈ s.env, e ≠ .reset) →
    (∀ r ∈ s.requests, decode r ≠ .ok .envReset) → step s = .next t → t.fatalUnderway kind

/-! ### Whole-machine rules -/

/-- Every step keeps the invariant of the state: indices reduced, storage canonical and inside its array (20_memory R63),
`len` at most `L`, one register per port, no handler active between steps. -/
def Obligations.StepKeepsInvariant : Prop := ∀ s t : State, s.wf → step s = .next t → t.wf

/-- 10_state R26: `len < L` holds outside the append that raises the fatal error, at every step. -/
def Obligations.StepKeepsLinesShort : Prop :=
  ∀ s t : State, s.wf → s.linesShort → step s = .next t → t.linesShort

/-- 70_reset R312: nothing changes the compile-time configuration while running. -/
def Obligations.StepKeepsConfiguration : Prop := ∀ s t : State, step s = .next t → t.cfg = s.cfg

/-- 10_state R31, 45_scheduler R254, 60_exceptions R295: in `ResetWait` and `Halted` `MAIN` has no step: neither an instruction but the
reset event, nor a step of the machine with no reset scheduled or requested, changes the run state, the position, `I` or
anything `MAIN` alone writes. With nothing requested a step is the next turn of the schedule, or, with none, nothing (what a
step is then: the model's choice, log 19). -/
def Obligations.StoppedMainTakesNoStep : Prop :=
  ∀ s : State, s.run ≠ .running →
    (∀ (i : Instr) (t : State), i ≠ .envReset → exec i s = .next t → t.sameMain s) ∧
    (∀ t : State, (∀ e ∈ s.env, e ≠ .reset) → (∀ r ∈ s.requests, decode r ≠ .ok .envReset) → step s = .next t →
      t.sameMain s) ∧
    (s.requests = [] → s.env = [] → step s = .next s) ∧
    (∀ e rest, s.requests = [] → s.env = e :: rest → step s = deliver e { s with env := rest })

/-- 10_state R43, R45: bytes on the wire are never taken back: without a reset, every step extends each `wire_out[c]`. -/
def Obligations.WireOutputOnlyGrows : Prop :=
  ∀ (s t : State) (c : Channel), (∀ e ∈ s.env, e ≠ .reset) → (∀ r ∈ s.requests, decode r ≠ .ok .envReset) →
    Micro.call .envReset ∉ s.main → step s = .next t → ∃ more : List Byte, t.wireOut.get c = s.wireOut.get c ++ more

/-! ### Frames -/

/-- The frame of `CH.TX` and `CH.DRAIN`, complete or waiting (41_channel R154, R155, "Writes"): only `tx[c]`, `tx_irq_en[c]`,
`tx_ready[c]`, `wire_out[c]`, `I` (cleared while a drain waits), the position and the returned value change. `CH.TX` stores only
at the old `wr`; it writes the enable only with `I = 1`, and then neither `rd` nor the transmit register; `CH.DRAIN` stores
nothing and writes neither `wr` nor the enable. -/
def Obligations.TransmitFrame : Prop :=
  ∀ (s t : State) (c : Channel) (b : Byte), s.atRest →
    ((exec (.chTx c b) s = .next t ∨ exec (.chDrain c) s = .next t) →
      (∀ q, q ≠ .tx c → t.ring q = s.ring q) ∧
      (∀ d, d ≠ c → t.txIrqEn.get d = s.txIrqEn.get d ∧ t.txReady.get d = s.txReady.get d ∧
        t.wireOut.get d = s.wireOut.get d) ∧
      t = { s with tx := t.tx, txIrqEn := t.txIrqEn, txReady := t.txReady, wireOut := t.wireOut, ie := t.ie,
                   main := t.main, ret := t.ret }) ∧
    (exec (.chTx c b) s = .next t →
      (∀ k, k ≠ (s.ring (.tx c)).wr → Memory.read (t.ring (.tx c)).store k = Memory.read (s.ring (.tx c)).store k) ∧
      ((t.ring (.tx c)).wr = (s.ring (.tx c)).wr ∨
        (t.ring (.tx c)).wr = ((s.ring (.tx c)).wr + 1) % s.capacity (.tx c)) ∧
      (s.ie = true → (t.ring (.tx c)).rd = (s.ring (.tx c)).rd ∧ t.txReady = s.txReady ∧ t.wireOut = s.wireOut ∧
        t.ie = true) ∧
      (s.ie = false → t.txIrqEn = s.txIrqEn ∧ t.ie = false)) ∧
    (exec (.chDrain c) s = .next t →
      (t.ring (.tx c)).store = (s.ring (.tx c)).store ∧ (t.ring (.tx c)).wr = (s.ring (.tx c)).wr ∧
      t.txIrqEn = s.txIrqEn ∧ (t.ie = s.ie ∨ t.ie = false))

/-- The frame of the commands that answer a line (`G3` and `FWD`), responding, waiting or fatal: receive buffers, framers,
last values, clocks, phase and pins stay; only `M` and `N` may change a mask, and only that of the resolved port; at most
one driver action is recorded (44_dispatcher R213 to R223, "Writes"). -/
def Obligations.CommandFrame : Prop :=
  ∀ (s t : State) (i : Instr), s.atRest → i.lineText ≠ [] → i ≠ .cmdZ → exec i s = .next t →
    t.rx = s.rx ∧ t.lf = s.lf ∧ t.last = s.last ∧ t.lastNotify = s.lastNotify ∧ t.lastPoll = s.lastPoll ∧
    t.msClock = s.msClock ∧ t.schedPhase = s.schedPhase ∧ t.isrActive = s.isrActive ∧ t.pinIn = s.pinIn ∧
    t.startPending = s.startPending ∧ t.cfg = s.cfg ∧
    (t.drvLog = s.drvLog ∨ ∃ a, t.drvLog = s.drvLog ++ [a]) ∧
    (t.mask = s.mask ∨ ∃ port pin more p m, (i = .cmdM (port :: pin :: more) ∨ i = .cmdN (port :: pin :: more)) ∧
      portIndex s.cfg port = some p ∧ t.mask = s.mask.set p m) ∧
    (∀ c, c ≠ .ch0 → (∀ payload, i = .cmdFwd1 payload → c ≠ .ch1) → (∀ payload, i = .cmdFwd2 payload → c ≠ .ch2) →
      (∀ payload, i = .cmdFwd3 payload → c ≠ .ch3) →
      t.ring (.tx c) = s.ring (.tx c) ∧ t.txIrqEn.get c = s.txIrqEn.get c ∧ t.wireOut.get c = s.wireOut.get c)
end

