-- ==== Sys2Proof/Laws/Framing.lean ====
section
/-!
SUPPORT. What the framing of a byte stream does with the next byte: one lemma per row of 42_line_framer R171; and
`sameMain` as a relation.
-/
namespace Sys2Proof.Machine

/-! ### Rows `IDLE` and `ACCUM` of R171 -/

@[simp] theorem pastLeading_nil (part : List Byte) : pastLeading part [] = [] := by simp [pastLeading]

/-- Once there is content nothing is discarded. -/
theorem pastLeading_of_ne {part : List Byte} (u : List Byte) (h : part ≠ []) : pastLeading part u = u := if_neg h

@[simp] theorem framedLine_nil (part : List Byte) : framedLine part [] = part := by simp [framedLine]

@[simp] theorem behindLine_nil (part : List Byte) : behindLine part [] = [] := by simp [behindLine]

/-- `IDLE`, `TERM` or `NUL`: discarded. -/
theorem pastLeading_discard {b : Byte} (u : List Byte) (h : b = 0x00#8 ∨ isTerm b = true) :
    pastLeading [] (b :: u) = pastLeading [] u := by
  have hb : (b == 0x00#8 || b == 0x0A#8 || b == 0x0D#8) = true := by
    simpa [isTerm, Ascii.cr, Ascii.lf, or_comm, or_assoc, or_left_comm] using h
  simp only [pastLeading, if_true, List.dropWhile_cons, hb]

theorem framedLine_discard {b : Byte} (u : List Byte) (h : b = 0x00#8 ∨ isTerm b = true) :
    framedLine [] (b :: u) = framedLine [] u := by simp only [framedLine, pastLeading_discard u h]

theorem behindLine_discard {b : Byte} (u : List Byte) (h : b = 0x00#8 ∨ isTerm b = true) :
    behindLine [] (b :: u) = behindLine [] u := by simp only [behindLine, pastLeading_discard u h]

/-- `ACCUM`, `TERM`: the line is complete and the terminator is what is behind it. -/
theorem framed_term {part : List Byte} {b : Byte} (u : List Byte) (hp : part ≠ []) (h : isTerm b = true) :
    framedLine part (b :: u) = part ∧ behindLine part (b :: u) = b :: u := by
  have hb : (b != 0x0A#8 && b != 0x0D#8) = false := by
    rcases (by simpa [isTerm, Ascii.cr, Ascii.lf] using h : b = 0x0D#8 ∨ b = 0x0A#8) with rfl | rfl <;> decide
  simp [framedLine, behindLine, pastLeading_of_ne _ hp, hb]

/-- A byte that is kept (`OTHER`, or `NUL` after content) is not discarded. -/
theorem pastLeading_kept {part : List Byte} {b : Byte} (u : List Byte) (h : isTerm b = false)
    (hn : b = 0x00#8 → part ≠ []) : pastLeading part (b :: u) = b :: u := by
  by_cases hp : part = []
  · have hb : (b == 0x00#8 || b == 0x0A#8 || b == 0x0D#8) = false := by
      have h0 : b ≠ 0x00#8 := fun h0 => hn h0 hp
      simp only [isTerm, Ascii.cr, Ascii.lf, Bool.or_eq_false_iff, beq_eq_false_iff_ne] at h
      simp [h0, h.1, h.2]
    simp [pastLeading, hp, hb]
  · exact pastLeading_of_ne _ hp

/-- `OTHER`, or `NUL` after content: the byte joins the line. -/
theorem framed_kept {part : List Byte} {b : Byte} (u : List Byte) (h : isTerm b = false) (hn : b = 0x00#8 → part ≠ []) :
    framedLine part (b :: u) = framedLine (part ++ [b]) u ∧ behindLine part (b :: u) = behindLine (part ++ [b]) u := by
  have hb : (b != 0x0A#8 && b != 0x0D#8) = true := by
    simp only [isTerm, Ascii.cr, Ascii.lf, Bool.or_eq_false_iff, beq_eq_false_iff_ne] at h
    simp [h.1, h.2]
  simp [framedLine, behindLine, pastLeading_kept u h hn, pastLeading_of_ne (part := part ++ [b]) u (by simp), hb]

/-- The line never loses what the framer already holds. -/
theorem length_le_framedLine (part u : List Byte) : part.length ≤ (framedLine part u).length := by simp [framedLine]

/-! ### What `MAIN` owns -/

theorem State.sameMain.refl (s : State) : s.sameMain s := ⟨rfl, rfl, rfl, rfl, rfl, rfl, rfl, rfl, rfl, rfl, rfl⟩

theorem State.sameMain.trans {s t u : State} (h : t.sameMain s) (g : u.sameMain t) : u.sameMain s :=
  ⟨g.run.trans h.run, g.main.trans h.main, g.ie.trans h.ie, g.lf.trans h.lf, g.mask.trans h.mask, g.last.trans h.last,
    g.lastPoll.trans h.lastPoll, g.lastNotify.trans h.lastNotify, g.schedPhase.trans h.schedPhase,
    g.wdtArmed.trans h.wdtArmed, g.drvLog.trans h.drvLog⟩

end Sys2Proof.Machine
end

