-- ==== Sys2Proof/Laws/State.lean ====
section
/-!
SUPPORT. One lemma per field per update of the state, so that no later proof unfolds a record update.
-/
namespace Sys2Proof

/-! ### Per-channel arrays -/

@[simp] theorem Four.get_set_same {α : Type} (f : Four α) (c : Channel) (v : α) : (f.set c v).get c = v := by
  cases c <;> rfl

theorem Four.get_set_ne {α : Type} (f : Four α) {c d : Channel} (v : α) (h : d ≠ c) : (f.set c v).get d = f.get d := by
  cases c <;> cases d <;> first | rfl | exact absurd rfl h

theorem Four.get_set {α : Type} (f : Four α) (c d : Channel) (v : α) :
    (f.set c v).get d = if d = c then v else f.get d := by
  cases c <;> cases d <;> rfl

@[simp] theorem Four.set_get {α : Type} (f : Four α) (c : Channel) : f.set c (f.get c) = f := by
  cases c <;> rfl

@[simp] theorem Four.set_set {α : Type} (f : Four α) (c : Channel) (v w : α) : (f.set c v).set c w = f.set c w := by
  cases c <;> rfl

@[simp] theorem Four.get_all {α : Type} (v : α) (c : Channel) : (Four.all v).get c = v := by
  cases c <;> rfl

namespace Machine

/-! ### Ring buffers -/

@[simp] theorem State.ring_setRing (s : State) (q : Queue) (r : Ring) : (s.setRing q r).ring q = r := by
  obtain ⟨c, d⟩ := q
  cases d <;> simp [State.setRing, State.ring]

theorem State.ring_setRing_ne (s : State) {p q : Queue} (r : Ring) (h : p ≠ q) : (s.setRing q r).ring p = s.ring p := by
  obtain ⟨c, d⟩ := q
  obtain ⟨c', d'⟩ := p
  cases d <;> cases d' <;> simp_all [State.setRing, State.ring, Four.get_set_ne]

@[simp] theorem State.setRing_ring (s : State) (q : Queue) : s.setRing q (s.ring q) = s := by
  obtain ⟨c, d⟩ := q
  cases d <;> simp [State.setRing, State.ring]

@[simp] theorem State.setRing_setRing (s : State) (q : Queue) (r r' : Ring) :
    (s.setRing q r).setRing q r' = s.setRing q r' := by
  obtain ⟨c, d⟩ := q
  cases d <;> simp [State.setRing]


@[simp] theorem State.setRing_cfg (s : State) (q : Queue) (r : Ring) : (s.setRing q r).cfg = s.cfg := rfl
@[simp] theorem State.setRing_txIrqEn (s : State) (q : Queue) (r : Ring) : (s.setRing q r).txIrqEn = s.txIrqEn := rfl
@[simp] theorem State.setRing_lf (s : State) (q : Queue) (r : Ring) : (s.setRing q r).lf = s.lf := rfl
@[simp] theorem State.setRing_mask (s : State) (q : Queue) (r : Ring) : (s.setRing q r).mask = s.mask := rfl
@[simp] theorem State.setRing_last (s : State) (q : Queue) (r : Ring) : (s.setRing q r).last = s.last := rfl
@[simp] theorem State.setRing_lastNotify (s : State) (q : Queue) (r : Ring) : (s.setRing q r).lastNotify = s.lastNotify := rfl
@[simp] theorem State.setRing_lastPoll (s : State) (q : Queue) (r : Ring) : (s.setRing q r).lastPoll = s.lastPoll := rfl
@[simp] theorem State.setRing_msClock (s : State) (q : Queue) (r : Ring) : (s.setRing q r).msClock = s.msClock := rfl
@[simp] theorem State.setRing_ie (s : State) (q : Queue) (r : Ring) : (s.setRing q r).ie = s.ie := rfl
@[simp] theorem State.setRing_run (s : State) (q : Queue) (r : Ring) : (s.setRing q r).run = s.run := rfl
@[simp] theorem State.setRing_wdtArmed (s : State) (q : Queue) (r : Ring) : (s.setRing q r).wdtArmed = s.wdtArmed := rfl
@[simp] theorem State.setRing_schedPhase (s : State) (q : Queue) (r : Ring) : (s.setRing q r).schedPhase = s.schedPhase := rfl
@[simp] theorem State.setRing_isrActive (s : State) (q : Queue) (r : Ring) : (s.setRing q r).isrActive = s.isrActive := rfl
@[simp] theorem State.setRing_txReady (s : State) (q : Queue) (r : Ring) : (s.setRing q r).txReady = s.txReady := rfl
@[simp] theorem State.setRing_pinIn (s : State) (q : Queue) (r : Ring) : (s.setRing q r).pinIn = s.pinIn := rfl
@[simp] theorem State.setRing_adcIn (s : State) (q : Queue) (r : Ring) : (s.setRing q r).adcIn = s.adcIn := rfl
@[simp] theorem State.setRing_wireOut (s : State) (q : Queue) (r : Ring) : (s.setRing q r).wireOut = s.wireOut := rfl
@[simp] theorem State.setRing_drvLog (s : State) (q : Queue) (r : Ring) : (s.setRing q r).drvLog = s.drvLog := rfl
@[simp] theorem State.setRing_main (s : State) (q : Queue) (r : Ring) : (s.setRing q r).main = s.main := rfl
@[simp] theorem State.setRing_ret (s : State) (q : Queue) (r : Ring) : (s.setRing q r).ret = s.ret := rfl
@[simp] theorem State.setRing_startPending (s : State) (q : Queue) (r : Ring) : (s.setRing q r).startPending = s.startPending := rfl
@[simp] theorem State.setRing_requests (s : State) (q : Queue) (r : Ring) : (s.setRing q r).requests = s.requests := rfl
@[simp] theorem State.setRing_env (s : State) (q : Queue) (r : Ring) : (s.setRing q r).env = s.env := rfl
@[simp] theorem State.setRing_draws (s : State) (q : Queue) (r : Ring) : (s.setRing q r).draws = s.draws := rfl
@[simp] theorem State.setRd_cfg (s : State) (q : Queue) (v : Nat) : (s.setRd q v).cfg = s.cfg := rfl
@[simp] theorem State.setRd_txIrqEn (s : State) (q : Queue) (v : Nat) : (s.setRd q v).txIrqEn = s.txIrqEn := rfl
@[simp] theorem State.setRd_lf (s : State) (q : Queue) (v : Nat) : (s.setRd q v).lf = s.lf := rfl
@[simp] theorem State.setRd_mask (s : State) (q : Queue) (v : Nat) : (s.setRd q v).mask = s.mask := rfl
@[simp] theorem State.setRd_last (s : State) (q : Queue) (v : Nat) : (s.setRd q v).last = s.last := rfl
@[simp] theorem State.setRd_lastNotify (s : State) (q : Queue) (v : Nat) : (s.setRd q v).lastNotify = s.lastNotify := rfl
@[simp] theorem State.setRd_lastPoll (s : State) (q : Queue) (v : Nat) : (s.setRd q v).lastPoll = s.lastPoll := rfl
@[simp] theorem State.setRd_msClock (s : State) (q : Queue) (v : Nat) : (s.setRd q v).msClock = s.msClock := rfl
@[simp] theorem State.setRd_ie (s : State) (q : Queue) (v : Nat) : (s.setRd q v).ie = s.ie := rfl
@[simp] theorem State.setRd_run (s : State) (q : Queue) (v : Nat) : (s.setRd q v).run = s.run := rfl
@[simp] theorem State.setRd_wdtArmed (s : State) (q : Queue) (v : Nat) : (s.setRd q v).wdtArmed = s.wdtArmed := rfl
@[simp] theorem State.setRd_schedPhase (s : State) (q : Queue) (v : Nat) : (s.setRd q v).schedPhase = s.schedPhase := rfl
@[simp] theorem State.setRd_isrActive (s : State) (q : Queue) (v : Nat) : (s.setRd q v).isrActive = s.isrActive := rfl
@[simp] theorem State.setRd_txReady (s : State) (q : Queue) (v : Nat) : (s.setRd q v).txReady = s.txReady := rfl
@[simp] theorem State.setRd_pinIn (s : State) (q : Queue) (v : Nat) : (s.setRd q v).pinIn = s.pinIn := rfl
@[simp] theorem State.setRd_adcIn (s : State) (q : Queue) (v : Nat) : (s.setRd q v).adcIn = s.adcIn := rfl
@[simp] theorem State.setRd_wireOut (s : State) (q : Queue) (v : Nat) : (s.setRd q v).wireOut = s.wireOut := rfl
@[simp] theorem State.setRd_drvLog (s : State) (q : Queue) (v : Nat) : (s.setRd q v).drvLog = s.drvLog := rfl
@[simp] theorem State.setRd_main (s : State) (q : Queue) (v : Nat) : (s.setRd q v).main = s.main := rfl
@[simp] theorem State.setRd_ret (s : State) (q : Queue) (v : Nat) : (s.setRd q v).ret = s.ret := rfl
@[simp] theorem State.setRd_startPending (s : State) (q : Queue) (v : Nat) : (s.setRd q v).startPending = s.startPending := rfl
@[simp] theorem State.setRd_requests (s : State) (q : Queue) (v : Nat) : (s.setRd q v).requests = s.requests := rfl
@[simp] theorem State.setRd_env (s : State) (q : Queue) (v : Nat) : (s.setRd q v).env = s.env := rfl
@[simp] theorem State.setRd_draws (s : State) (q : Queue) (v : Nat) : (s.setRd q v).draws = s.draws := rfl
@[simp] theorem State.setWr_cfg (s : State) (q : Queue) (v : Nat) : (s.setWr q v).cfg = s.cfg := rfl
@[simp] theorem State.setWr_txIrqEn (s : State) (q : Queue) (v : Nat) : (s.setWr q v).txIrqEn = s.txIrqEn := rfl
@[simp] theorem State.setWr_lf (s : State) (q : Queue) (v : Nat) : (s.setWr q v).lf = s.lf := rfl
@[simp] theorem State.setWr_mask (s : State) (q : Queue) (v : Nat) : (s.setWr q v).mask = s.mask := rfl
@[simp] theorem State.setWr_last (s : State) (q : Queue) (v : Nat) : (s.setWr q v).last = s.last := rfl
@[simp] theorem State.setWr_lastNotify (s : State) (q : Queue) (v : Nat) : (s.setWr q v).lastNotify = s.lastNotify := rfl
@[simp] theorem State.setWr_lastPoll (s : State) (q : Queue) (v : Nat) : (s.setWr q v).lastPoll = s.lastPoll := rfl
@[simp] theorem State.setWr_msClock (s : State) (q : Queue) (v : Nat) : (s.setWr q v).msClock = s.msClock := rfl
@[simp] theorem State.setWr_ie (s : State) (q : Queue) (v : Nat) : (s.setWr q v).ie = s.ie := rfl
@[simp] theorem State.setWr_run (s : State) (q : Queue) (v : Nat) : (s.setWr q v).run = s.run := rfl
@[simp] theorem State.setWr_wdtArmed (s : State) (q : Queue) (v : Nat) : (s.setWr q v).wdtArmed = s.wdtArmed := rfl
@[simp] theorem State.setWr_schedPhase (s : State) (q : Queue) (v : Nat) : (s.setWr q v).schedPhase = s.schedPhase := rfl
@[simp] theorem State.setWr_isrActive (s : State) (q : Queue) (v : Nat) : (s.setWr q v).isrActive = s.isrActive := rfl
@[simp] theorem State.setWr_txReady (s : State) (q : Queue) (v : Nat) : (s.setWr q v).txReady = s.txReady := rfl
@[simp] theorem State.setWr_pinIn (s : State) (q : Queue) (v : Nat) : (s.setWr q v).pinIn = s.pinIn := rfl
@[simp] theorem State.setWr_adcIn (s : State) (q : Queue) (v : Nat) : (s.setWr q v).adcIn = s.adcIn := rfl
@[simp] theorem State.setWr_wireOut (s : State) (q : Queue) (v : Nat) : (s.setWr q v).wireOut = s.wireOut := rfl
@[simp] theorem State.setWr_drvLog (s : State) (q : Queue) (v : Nat) : (s.setWr q v).drvLog = s.drvLog := rfl
@[simp] theorem State.setWr_main (s : State) (q : Queue) (v : Nat) : (s.setWr q v).main = s.main := rfl
@[simp] theorem State.setWr_ret (s : State) (q : Queue) (v : Nat) : (s.setWr q v).ret = s.ret := rfl
@[simp] theorem State.setWr_startPending (s : State) (q : Queue) (v : Nat) : (s.setWr q v).startPending = s.startPending := rfl
@[simp] theorem State.setWr_requests (s : State) (q : Queue) (v : Nat) : (s.setWr q v).requests = s.requests := rfl
@[simp] theorem State.setWr_env (s : State) (q : Queue) (v : Nat) : (s.setWr q v).env = s.env := rfl
@[simp] theorem State.setWr_draws (s : State) (q : Queue) (v : Nat) : (s.setWr q v).draws = s.draws := rfl

@[simp] theorem State.ring_setRd (s : State) (q : Queue) (v : Nat) :
    (s.setRd q v).ring q = { s.ring q with rd := v } := by
  simp [State.setRd]

@[simp] theorem State.ring_setWr (s : State) (q : Queue) (v : Nat) :
    (s.setWr q v).ring q = { s.ring q with wr := v } := by
  simp [State.setWr]

/-! ### One transmit -/

@[simp] theorem State.afterEmit_cfg (c : Channel) (b : Byte) (s : State) : (afterEmit c b s).cfg = s.cfg := rfl
@[simp] theorem State.afterEmit_lf (c : Channel) (b : Byte) (s : State) : (afterEmit c b s).lf = s.lf := rfl
@[simp] theorem State.afterEmit_mask (c : Channel) (b : Byte) (s : State) : (afterEmit c b s).mask = s.mask := rfl
@[simp] theorem State.afterEmit_last (c : Channel) (b : Byte) (s : State) : (afterEmit c b s).last = s.last := rfl
@[simp] theorem State.afterEmit_lastNotify (c : Channel) (b : Byte) (s : State) : (afterEmit c b s).lastNotify = s.lastNotify := rfl
@[simp] theorem State.afterEmit_lastPoll (c : Channel) (b : Byte) (s : State) : (afterEmit c b s).lastPoll = s.lastPoll := rfl
@[simp] theorem State.afterEmit_msClock (c : Channel) (b : Byte) (s : State) : (afterEmit c b s).msClock = s.msClock := rfl
@[simp] theorem State.afterEmit_ie (c : Channel) (b : Byte) (s : State) : (afterEmit c b s).ie = s.ie := rfl
@[simp] theorem State.afterEmit_run (c : Channel) (b : Byte) (s : State) : (afterEmit c b s).run = s.run := rfl
@[simp] theorem State.afterEmit_wdtArmed (c : Channel) (b : Byte) (s : State) : (afterEmit c b s).wdtArmed = s.wdtArmed := rfl
@[simp] theorem State.afterEmit_schedPhase (c : Channel) (b : Byte) (s : State) : (afterEmit c b s).schedPhase = s.schedPhase := rfl
@[simp] theorem State.afterEmit_isrActive (c : Channel) (b : Byte) (s : State) : (afterEmit c b s).isrActive = s.isrActive := rfl
@[simp] theorem State.afterEmit_txReady (c : Channel) (b : Byte) (s : State) : (afterEmit c b s).txReady = s.txReady := rfl
@[simp] theorem State.afterEmit_pinIn (c : Channel) (b : Byte) (s : State) : (afterEmit c b s).pinIn = s.pinIn := rfl
@[simp] theorem State.afterEmit_adcIn (c : Channel) (b : Byte) (s : State) : (afterEmit c b s).adcIn = s.adcIn := rfl
@[simp] theorem State.afterEmit_wireOut (c : Channel) (b : Byte) (s : State) : (afterEmit c b s).wireOut = s.wireOut := rfl
@[simp] theorem State.afterEmit_drvLog (c : Channel) (b : Byte) (s : State) : (afterEmit c b s).drvLog = s.drvLog := rfl
@[simp] theorem State.afterEmit_main (c : Channel) (b : Byte) (s : State) : (afterEmit c b s).main = s.main := rfl
@[simp] theorem State.afterEmit_startPending (c : Channel) (b : Byte) (s : State) : (afterEmit c b s).startPending = s.startPending := rfl
@[simp] theorem State.afterEmit_requests (c : Channel) (b : Byte) (s : State) : (afterEmit c b s).requests = s.requests := rfl
@[simp] theorem State.afterEmit_env (c : Channel) (b : Byte) (s : State) : (afterEmit c b s).env = s.env := rfl
@[simp] theorem State.afterEmit_draws (c : Channel) (b : Byte) (s : State) : (afterEmit c b s).draws = s.draws := rfl
@[simp] theorem State.afterEmit_ret (c : Channel) (b : Byte) (s : State) : (afterEmit c b s).ret = .bool true := rfl


/-! ### setLf -/

@[simp] theorem State.setLf_cfg (s : State) (c : Channel) (l : LineBuf) : (s.setLf c l).cfg = s.cfg := rfl
@[simp] theorem State.setLf_rx (s : State) (c : Channel) (l : LineBuf) : (s.setLf c l).rx = s.rx := rfl
@[simp] theorem State.setLf_tx (s : State) (c : Channel) (l : LineBuf) : (s.setLf c l).tx = s.tx := rfl
@[simp] theorem State.setLf_txIrqEn (s : State) (c : Channel) (l : LineBuf) : (s.setLf c l).txIrqEn = s.txIrqEn := rfl
@[simp] theorem State.setLf_lf (s : State) (c : Channel) (l : LineBuf) : (s.setLf c l).lf = s.lf.set c l := rfl
@[simp] theorem State.setLf_mask (s : State) (c : Channel) (l : LineBuf) : (s.setLf c l).mask = s.mask := rfl
@[simp] theorem State.setLf_last (s : State) (c : Channel) (l : LineBuf) : (s.setLf c l).last = s.last := rfl
@[simp] theorem State.setLf_lastNotify (s : State) (c : Channel) (l : LineBuf) : (s.setLf c l).lastNotify = s.lastNotify := rfl
@[simp] theorem State.setLf_lastPoll (s : State) (c : Channel) (l : LineBuf) : (s.setLf c l).lastPoll = s.lastPoll := rfl
@[simp] theorem State.setLf_msClock (s : State) (c : Channel) (l : LineBuf) : (s.setLf c l).msClock = s.msClock := rfl
@[simp] theorem State.setLf_ie (s : State) (c : Channel) (l : LineBuf) : (s.setLf c l).ie = s.ie := rfl
@[simp] theorem State.setLf_run (s : State) (c : Channel) (l : LineBuf) : (s.setLf c l).run = s.run := rfl
@[simp] theorem State.setLf_wdtArmed (s : State) (c : Channel) (l : LineBuf) : (s.setLf c l).wdtArmed = s.wdtArmed := rfl
@[simp] theorem State.setLf_schedPhase (s : State) (c : Channel) (l : LineBuf) : (s.setLf c l).schedPhase = s.schedPhase := rfl
@[simp] theorem State.setLf_isrActive (s : State) (c : Channel) (l : LineBuf) : (s.setLf c l).isrActive = s.isrActive := rfl
@[simp] theorem State.setLf_txReady (s : State) (c : Channel) (l : LineBuf) : (s.setLf c l).txReady = s.txReady := rfl
@[simp] theorem State.setLf_pinIn (s : State) (c : Channel) (l : LineBuf) : (s.setLf c l).pinIn = s.pinIn := rfl
@[simp] theorem State.setLf_adcIn (s : State) (c : Channel) (l : LineBuf) : (s.setLf c l).adcIn = s.adcIn := rfl
@[simp] theorem State.setLf_wireOut (s : State) (c : Channel) (l : LineBuf) : (s.setLf c l).wireOut = s.wireOut := rfl
@[simp] theorem State.setLf_drvLog (s : State) (c : Channel) (l : LineBuf) : (s.setLf c l).drvLog = s.drvLog := rfl
@[simp] theorem State.setLf_main (s : State) (c : Channel) (l : LineBuf) : (s.setLf c l).main = s.main := rfl
@[simp] theorem State.setLf_ret (s : State) (c : Channel) (l : LineBuf) : (s.setLf c l).ret = s.ret := rfl
@[simp] theorem State.setLf_startPending (s : State) (c : Channel) (l : LineBuf) : (s.setLf c l).startPending = s.startPending := rfl
@[simp] theorem State.setLf_requests (s : State) (c : Channel) (l : LineBuf) : (s.setLf c l).requests = s.requests := rfl
@[simp] theorem State.setLf_env (s : State) (c : Channel) (l : LineBuf) : (s.setLf c l).env = s.env := rfl
@[simp] theorem State.setLf_draws (s : State) (c : Channel) (l : LineBuf) : (s.setLf c l).draws = s.draws := rfl
@[simp] theorem State.setLf_ring (s : State) (c : Channel) (l : LineBuf) (q : Queue) : (s.setLf c l).ring q = s.ring q := rfl

/-! ### setIrqEn -/

@[simp] theorem State.setIrqEn_cfg (s : State) (c : Channel) (v : Bool) : (s.setIrqEn c v).cfg = s.cfg := rfl
@[simp] theorem State.setIrqEn_rx (s : State) (c : Channel) (v : Bool) : (s.setIrqEn c v).rx = s.rx := rfl
@[simp] theorem State.setIrqEn_tx (s : State) (c : Channel) (v : Bool) : (s.setIrqEn c v).tx = s.tx := rfl
@[simp] theorem State.setIrqEn_txIrqEn (s : State) (c : Channel) (v : Bool) : (s.setIrqEn c v).txIrqEn = s.txIrqEn.set c v := rfl
@[simp] theorem State.setIrqEn_lf (s : State) (c : Channel) (v : Bool) : (s.setIrqEn c v).lf = s.lf := rfl
@[simp] theorem State.setIrqEn_mask (s : State) (c : Channel) (v : Bool) : (s.setIrqEn c v).mask = s.mask := rfl
@[simp] theorem State.setIrqEn_last (s : State) (c : Channel) (v : Bool) : (s.setIrqEn c v).last = s.last := rfl
@[simp] theorem State.setIrqEn_lastNotify (s : State) (c : Channel) (v : Bool) : (s.setIrqEn c v).lastNotify = s.lastNotify := rfl
@[simp] theorem State.setIrqEn_lastPoll (s : State) (c : Channel) (v : Bool) : (s.setIrqEn c v).lastPoll = s.lastPoll := rfl
@[simp] theorem State.setIrqEn_msClock (s : State) (c : Channel) (v : Bool) : (s.setIrqEn c v).msClock = s.msClock := rfl
@[simp] theorem State.setIrqEn_ie (s : State) (c : Channel) (v : Bool) : (s.setIrqEn c v).ie = s.ie := rfl
@[simp] theorem State.setIrqEn_run (s : State) (c : Channel) (v : Bool) : (s.setIrqEn c v).run = s.run := rfl
@[simp] theorem State.setIrqEn_wdtArmed (s : State) (c : Channel) (v : Bool) : (s.setIrqEn c v).wdtArmed = s.wdtArmed := rfl
@[simp] theorem State.setIrqEn_schedPhase (s : State) (c : Channel) (v : Bool) : (s.setIrqEn c v).schedPhase = s.schedPhase := rfl
@[simp] theorem State.setIrqEn_isrActive (s : State) (c : Channel) (v : Bool) : (s.setIrqEn c v).isrActive = s.isrActive := rfl
@[simp] theorem State.setIrqEn_txReady (s : State) (c : Channel) (v : Bool) : (s.setIrqEn c v).txReady = s.txReady := rfl
@[simp] theorem State.setIrqEn_pinIn (s : State) (c : Channel) (v : Bool) : (s.setIrqEn c v).pinIn = s.pinIn := rfl
@[simp] theorem State.setIrqEn_adcIn (s : State) (c : Channel) (v : Bool) : (s.setIrqEn c v).adcIn = s.adcIn := rfl
@[simp] theorem State.setIrqEn_wireOut (s : State) (c : Channel) (v : Bool) : (s.setIrqEn c v).wireOut = s.wireOut := rfl
@[simp] theorem State.setIrqEn_drvLog (s : State) (c : Channel) (v : Bool) : (s.setIrqEn c v).drvLog = s.drvLog := rfl
@[simp] theorem State.setIrqEn_main (s : State) (c : Channel) (v : Bool) : (s.setIrqEn c v).main = s.main := rfl
@[simp] theorem State.setIrqEn_ret (s : State) (c : Channel) (v : Bool) : (s.setIrqEn c v).ret = s.ret := rfl
@[simp] theorem State.setIrqEn_startPending (s : State) (c : Channel) (v : Bool) : (s.setIrqEn c v).startPending = s.startPending := rfl
@[simp] theorem State.setIrqEn_requests (s : State) (c : Channel) (v : Bool) : (s.setIrqEn c v).requests = s.requests := rfl
@[simp] theorem State.setIrqEn_env (s : State) (c : Channel) (v : Bool) : (s.setIrqEn c v).env = s.env := rfl
@[simp] theorem State.setIrqEn_draws (s : State) (c : Channel) (v : Bool) : (s.setIrqEn c v).draws = s.draws := rfl
@[simp] theorem State.setIrqEn_ring (s : State) (c : Channel) (v : Bool) (q : Queue) : (s.setIrqEn c v).ring q = s.ring q := rfl

/-! ### wdtArm -/

@[simp] theorem State.wdtArm_cfg (s : State) : s.wdtArm.cfg = s.cfg := rfl
@[simp] theorem State.wdtArm_rx (s : State) : s.wdtArm.rx = s.rx := rfl
@[simp] theorem State.wdtArm_tx (s : State) : s.wdtArm.tx = s.tx := rfl
@[simp] theorem State.wdtArm_txIrqEn (s : State) : s.wdtArm.txIrqEn = s.txIrqEn := rfl
@[simp] theorem State.wdtArm_lf (s : State) : s.wdtArm.lf = s.lf := rfl
@[simp] theorem State.wdtArm_mask (s : State) : s.wdtArm.mask = s.mask := rfl
@[simp] theorem State.wdtArm_last (s : State) : s.wdtArm.last = s.last := rfl
@[simp] theorem State.wdtArm_lastNotify (s : State) : s.wdtArm.lastNotify = s.lastNotify := rfl
@[simp] theorem State.wdtArm_lastPoll (s : State) : s.wdtArm.lastPoll = s.lastPoll := rfl
@[simp] theorem State.wdtArm_msClock (s : State) : s.wdtArm.msClock = s.msClock := rfl
@[simp] theorem State.wdtArm_ie (s : State) : s.wdtArm.ie = s.ie := rfl
@[simp] theorem State.wdtArm_run (s : State) : s.wdtArm.run = s.run := rfl
@[simp] theorem State.wdtArm_wdtArmed (s : State) : s.wdtArm.wdtArmed = true := rfl
@[simp] theorem State.wdtArm_schedPhase (s : State) : s.wdtArm.schedPhase = s.schedPhase := rfl
@[simp] theorem State.wdtArm_isrActive (s : State) : s.wdtArm.isrActive = s.isrActive := rfl
@[simp] theorem State.wdtArm_txReady (s : State) : s.wdtArm.txReady = s.txReady := rfl
@[simp] theorem State.wdtArm_pinIn (s : State) : s.wdtArm.pinIn = s.pinIn := rfl
@[simp] theorem State.wdtArm_adcIn (s : State) : s.wdtArm.adcIn = s.adcIn := rfl
@[simp] theorem State.wdtArm_wireOut (s : State) : s.wdtArm.wireOut = s.wireOut := rfl
@[simp] theorem State.wdtArm_drvLog (s : State) : s.wdtArm.drvLog = s.drvLog := rfl
@[simp] theorem State.wdtArm_main (s : State) : s.wdtArm.main = s.main := rfl
@[simp] theorem State.wdtArm_ret (s : State) : s.wdtArm.ret = s.ret := rfl
@[simp] theorem State.wdtArm_startPending (s : State) : s.wdtArm.startPending = s.startPending := rfl
@[simp] theorem State.wdtArm_requests (s : State) : s.wdtArm.requests = s.requests := rfl
@[simp] theorem State.wdtArm_env (s : State) : s.wdtArm.env = s.env := rfl
@[simp] theorem State.wdtArm_draws (s : State) : s.wdtArm.draws = s.draws := rfl
@[simp] theorem State.wdtArm_ring (s : State) (q : Queue) : s.wdtArm.ring q = s.ring q := rfl

/-! ### logDrv -/

@[simp] theorem State.logDrv_cfg (s : State) (a : DrvAction) : (s.logDrv a).cfg = s.cfg := rfl
@[simp] theorem State.logDrv_rx (s : State) (a : DrvAction) : (s.logDrv a).rx = s.rx := rfl
@[simp] theorem State.logDrv_tx (s : State) (a : DrvAction) : (s.logDrv a).tx = s.tx := rfl
@[simp] theorem State.logDrv_txIrqEn (s : State) (a : DrvAction) : (s.logDrv a).txIrqEn = s.txIrqEn := rfl
@[simp] theorem State.logDrv_lf (s : State) (a : DrvAction) : (s.logDrv a).lf = s.lf := rfl
@[simp] theorem State.logDrv_mask (s : State) (a : DrvAction) : (s.logDrv a).mask = s.mask := rfl
@[simp] theorem State.logDrv_last (s : State) (a : DrvAction) : (s.logDrv a).last = s.last := rfl
@[simp] theorem State.logDrv_lastNotify (s : State) (a : DrvAction) : (s.logDrv a).lastNotify = s.lastNotify := rfl
@[simp] theorem State.logDrv_lastPoll (s : State) (a : DrvAction) : (s.logDrv a).lastPoll = s.lastPoll := rfl
@[simp] theorem State.logDrv_msClock (s : State) (a : DrvAction) : (s.logDrv a).msClock = s.msClock := rfl
@[simp] theorem State.logDrv_ie (s : State) (a : DrvAction) : (s.logDrv a).ie = s.ie := rfl
@[simp] theorem State.logDrv_run (s : State) (a : DrvAction) : (s.logDrv a).run = s.run := rfl
@[simp] theorem State.logDrv_wdtArmed (s : State) (a : DrvAction) : (s.logDrv a).wdtArmed = s.wdtArmed := rfl
@[simp] theorem State.logDrv_schedPhase (s : State) (a : DrvAction) : (s.logDrv a).schedPhase = s.schedPhase := rfl
@[simp] theorem State.logDrv_isrActive (s : State) (a : DrvAction) : (s.logDrv a).isrActive = s.isrActive := rfl
@[simp] theorem State.logDrv_txReady (s : State) (a : DrvAction) : (s.logDrv a).txReady = s.txReady := rfl
@[simp] theorem State.logDrv_pinIn (s : State) (a : DrvAction) : (s.logDrv a).pinIn = s.pinIn := rfl
@[simp] theorem State.logDrv_adcIn (s : State) (a : DrvAction) : (s.logDrv a).adcIn = s.adcIn := rfl
@[simp] theorem State.logDrv_wireOut (s : State) (a : DrvAction) : (s.logDrv a).wireOut = s.wireOut := rfl
@[simp] theorem State.logDrv_drvLog (s : State) (a : DrvAction) : (s.logDrv a).drvLog = s.drvLog ++ [a] := rfl
@[simp] theorem State.logDrv_main (s : State) (a : DrvAction) : (s.logDrv a).main = s.main := rfl
@[simp] theorem State.logDrv_ret (s : State) (a : DrvAction) : (s.logDrv a).ret = s.ret := rfl
@[simp] theorem State.logDrv_startPending (s : State) (a : DrvAction) : (s.logDrv a).startPending = s.startPending := rfl
@[simp] theorem State.logDrv_requests (s : State) (a : DrvAction) : (s.logDrv a).requests = s.requests := rfl
@[simp] theorem State.logDrv_env (s : State) (a : DrvAction) : (s.logDrv a).env = s.env := rfl
@[simp] theorem State.logDrv_draws (s : State) (a : DrvAction) : (s.logDrv a).draws = s.draws := rfl
@[simp] theorem State.logDrv_ring (s : State) (a : DrvAction) (q : Queue) : (s.logDrv a).ring q = s.ring q := rfl

/-! ### withRet -/

@[simp] theorem State.withRet_cfg (s : State) (v : Ret) : (s.withRet v).cfg = s.cfg := rfl
@[simp] theorem State.withRet_rx (s : State) (v : Ret) : (s.withRet v).rx = s.rx := rfl
@[simp] theorem State.withRet_tx (s : State) (v : Ret) : (s.withRet v).tx = s.tx := rfl
@[simp] theorem State.withRet_txIrqEn (s : State) (v : Ret) : (s.withRet v).txIrqEn = s.txIrqEn := rfl
@[simp] theorem State.withRet_lf (s : State) (v : Ret) : (s.withRet v).lf = s.lf := rfl
@[simp] theorem State.withRet_mask (s : State) (v : Ret) : (s.withRet v).mask = s.mask := rfl
@[simp] theorem State.withRet_last (s : State) (v : Ret) : (s.withRet v).last = s.last := rfl
@[simp] theorem State.withRet_lastNotify (s : State) (v : Ret) : (s.withRet v).lastNotify = s.lastNotify := rfl
@[simp] theorem State.withRet_lastPoll (s : State) (v : Ret) : (s.withRet v).lastPoll = s.lastPoll := rfl
@[simp] theorem State.withRet_msClock (s : State) (v : Ret) : (s.withRet v).msClock = s.msClock := rfl
@[simp] theorem State.withRet_ie (s : State) (v : Ret) : (s.withRet v).ie = s.ie := rfl
@[simp] theorem State.withRet_run (s : State) (v : Ret) : (s.withRet v).run = s.run := rfl
@[simp] theorem State.withRet_wdtArmed (s : State) (v : Ret) : (s.withRet v).wdtArmed = s.wdtArmed := rfl
@[simp] theorem State.withRet_schedPhase (s : State) (v : Ret) : (s.withRet v).schedPhase = s.schedPhase := rfl
@[simp] theorem State.withRet_isrActive (s : State) (v : Ret) : (s.withRet v).isrActive = s.isrActive := rfl
@[simp] theorem State.withRet_txReady (s : State) (v : Ret) : (s.withRet v).txReady = s.txReady := rfl
@[simp] theorem State.withRet_pinIn (s : State) (v : Ret) : (s.withRet v).pinIn = s.pinIn := rfl
@[simp] theorem State.withRet_adcIn (s : State) (v : Ret) : (s.withRet v).adcIn = s.adcIn := rfl
@[simp] theorem State.withRet_wireOut (s : State) (v : Ret) : (s.withRet v).wireOut = s.wireOut := rfl
@[simp] theorem State.withRet_drvLog (s : State) (v : Ret) : (s.withRet v).drvLog = s.drvLog := rfl
@[simp] theorem State.withRet_main (s : State) (v : Ret) : (s.withRet v).main = s.main := rfl
@[simp] theorem State.withRet_ret (s : State) (v : Ret) : (s.withRet v).ret = v := rfl
@[simp] theorem State.withRet_startPending (s : State) (v : Ret) : (s.withRet v).startPending = s.startPending := rfl
@[simp] theorem State.withRet_requests (s : State) (v : Ret) : (s.withRet v).requests = s.requests := rfl
@[simp] theorem State.withRet_env (s : State) (v : Ret) : (s.withRet v).env = s.env := rfl
@[simp] theorem State.withRet_draws (s : State) (v : Ret) : (s.withRet v).draws = s.draws := rfl
@[simp] theorem State.withRet_ring (s : State) (v : Ret) (q : Queue) : (s.withRet v).ring q = s.ring q := rfl

/-! ### setMain -/

@[simp] theorem State.setMain_cfg (s : State) (ms : List Micro) : (s.setMain ms).cfg = s.cfg := rfl
@[simp] theorem State.setMain_rx (s : State) (ms : List Micro) : (s.setMain ms).rx = s.rx := rfl
@[simp] theorem State.setMain_tx (s : State) (ms : List Micro) : (s.setMain ms).tx = s.tx := rfl
@[simp] theorem State.setMain_txIrqEn (s : State) (ms : List Micro) : (s.setMain ms).txIrqEn = s.txIrqEn := rfl
@[simp] theorem State.setMain_lf (s : State) (ms : List Micro) : (s.setMain ms).lf = s.lf := rfl
@[simp] theorem State.setMain_mask (s : State) (ms : List Micro) : (s.setMain ms).mask = s.mask := rfl
@[simp] theorem State.setMain_last (s : State) (ms : List Micro) : (s.setMain ms).last = s.last := rfl
@[simp] theorem State.setMain_lastNotify (s : State) (ms : List Micro) : (s.setMain ms).lastNotify = s.lastNotify := rfl
@[simp] theorem State.setMain_lastPoll (s : State) (ms : List Micro) : (s.setMain ms).lastPoll = s.lastPoll := rfl
@[simp] theorem State.setMain_msClock (s : State) (ms : List Micro) : (s.setMain ms).msClock = s.msClock := rfl
@[simp] theorem State.setMain_ie (s : State) (ms : List Micro) : (s.setMain ms).ie = s.ie := rfl
@[simp] theorem State.setMain_run (s : State) (ms : List Micro) : (s.setMain ms).run = s.run := rfl
@[simp] theorem State.setMain_wdtArmed (s : State) (ms : List Micro) : (s.setMain ms).wdtArmed = s.wdtArmed := rfl
@[simp] theorem State.setMain_schedPhase (s : State) (ms : List Micro) : (s.setMain ms).schedPhase = s.schedPhase := rfl
@[simp] theorem State.setMain_isrActive (s : State) (ms : List Micro) : (s.setMain ms).isrActive = s.isrActive := rfl
@[simp] theorem State.setMain_txReady (s : State) (ms : List Micro) : (s.setMain ms).txReady = s.txReady := rfl
@[simp] theorem State.setMain_pinIn (s : State) (ms : List Micro) : (s.setMain ms).pinIn = s.pinIn := rfl
@[simp] theorem State.setMain_adcIn (s : State) (ms : List Micro) : (s.setMain ms).adcIn = s.adcIn := rfl
@[simp] theorem State.setMain_wireOut (s : State) (ms : List Micro) : (s.setMain ms).wireOut = s.wireOut := rfl
@[simp] theorem State.setMain_drvLog (s : State) (ms : List Micro) : (s.setMain ms).drvLog = s.drvLog := rfl
@[simp] theorem State.setMain_main (s : State) (ms : List Micro) : (s.setMain ms).main = ms := rfl
@[simp] theorem State.setMain_ret (s : State) (ms : List Micro) : (s.setMain ms).ret = s.ret := rfl
@[simp] theorem State.setMain_startPending (s : State) (ms : List Micro) : (s.setMain ms).startPending = s.startPending := rfl
@[simp] theorem State.setMain_requests (s : State) (ms : List Micro) : (s.setMain ms).requests = s.requests := rfl
@[simp] theorem State.setMain_env (s : State) (ms : List Micro) : (s.setMain ms).env = s.env := rfl
@[simp] theorem State.setMain_draws (s : State) (ms : List Micro) : (s.setMain ms).draws = s.draws := rfl
@[simp] theorem State.setMain_ring (s : State) (ms : List Micro) (q : Queue) : (s.setMain ms).ring q = s.ring q := rfl

/-! ### setEnv -/

@[simp] theorem State.setEnv_cfg (s : State) (ts : List Turn) : (s.setEnv ts).cfg = s.cfg := rfl
@[simp] theorem State.setEnv_rx (s : State) (ts : List Turn) : (s.setEnv ts).rx = s.rx := rfl
@[simp] theorem State.setEnv_tx (s : State) (ts : List Turn) : (s.setEnv ts).tx = s.tx := rfl
@[simp] theorem State.setEnv_txIrqEn (s : State) (ts : List Turn) : (s.setEnv ts).txIrqEn = s.txIrqEn := rfl
@[simp] theorem State.setEnv_lf (s : State) (ts : List Turn) : (s.setEnv ts).lf = s.lf := rfl
@[simp] theorem State.setEnv_mask (s : State) (ts : List Turn) : (s.setEnv ts).mask = s.mask := rfl
@[simp] theorem State.setEnv_last (s : State) (ts : List Turn) : (s.setEnv ts).last = s.last := rfl
@[simp] theorem State.setEnv_lastNotify (s : State) (ts : List Turn) : (s.setEnv ts).lastNotify = s.lastNotify := rfl
@[simp] theorem State.setEnv_lastPoll (s : State) (ts : List Turn) : (s.setEnv ts).lastPoll = s.lastPoll := rfl
@[simp] theorem State.setEnv_msClock (s : State) (ts : List Turn) : (s.setEnv ts).msClock = s.msClock := rfl
@[simp] theorem State.setEnv_ie (s : State) (ts : List Turn) : (s.setEnv ts).ie = s.ie := rfl
@[simp] theorem State.setEnv_run (s : State) (ts : List Turn) : (s.setEnv ts).run = s.run := rfl
@[simp] theorem State.setEnv_wdtArmed (s : State) (ts : List Turn) : (s.setEnv ts).wdtArmed = s.wdtArmed := rfl
@[simp] theorem State.setEnv_schedPhase (s : State) (ts : List Turn) : (s.setEnv ts).schedPhase = s.schedPhase := rfl
@[simp] theorem State.setEnv_isrActive (s : State) (ts : List Turn) : (s.setEnv ts).isrActive = s.isrActive := rfl
@[simp] theorem State.setEnv_txReady (s : State) (ts : List Turn) : (s.setEnv ts).txReady = s.txReady := rfl
@[simp] theorem State.setEnv_pinIn (s : State) (ts : List Turn) : (s.setEnv ts).pinIn = s.pinIn := rfl
@[simp] theorem State.setEnv_adcIn (s : State) (ts : List Turn) : (s.setEnv ts).adcIn = s.adcIn := rfl
@[simp] theorem State.setEnv_wireOut (s : State) (ts : List Turn) : (s.setEnv ts).wireOut = s.wireOut := rfl
@[simp] theorem State.setEnv_drvLog (s : State) (ts : List Turn) : (s.setEnv ts).drvLog = s.drvLog := rfl
@[simp] theorem State.setEnv_main (s : State) (ts : List Turn) : (s.setEnv ts).main = s.main := rfl
@[simp] theorem State.setEnv_ret (s : State) (ts : List Turn) : (s.setEnv ts).ret = s.ret := rfl
@[simp] theorem State.setEnv_startPending (s : State) (ts : List Turn) : (s.setEnv ts).startPending = s.startPending := rfl
@[simp] theorem State.setEnv_requests (s : State) (ts : List Turn) : (s.setEnv ts).requests = s.requests := rfl
@[simp] theorem State.setEnv_env (s : State) (ts : List Turn) : (s.setEnv ts).env = ts := rfl
@[simp] theorem State.setEnv_draws (s : State) (ts : List Turn) : (s.setEnv ts).draws = s.draws := rfl
@[simp] theorem State.setEnv_ring (s : State) (ts : List Turn) (q : Queue) : (s.setEnv ts).ring q = s.ring q := rfl

/-! ### push -/

@[simp] theorem State.push_cfg (s : State) (ms : List Micro) : (s.push ms).cfg = s.cfg := rfl
@[simp] theorem State.push_rx (s : State) (ms : List Micro) : (s.push ms).rx = s.rx := rfl
@[simp] theorem State.push_tx (s : State) (ms : List Micro) : (s.push ms).tx = s.tx := rfl
@[simp] theorem State.push_txIrqEn (s : State) (ms : List Micro) : (s.push ms).txIrqEn = s.txIrqEn := rfl
@[simp] theorem State.push_lf (s : State) (ms : List Micro) : (s.push ms).lf = s.lf := rfl
@[simp] theorem State.push_mask (s : State) (ms : List Micro) : (s.push ms).mask = s.mask := rfl
@[simp] theorem State.push_last (s : State) (ms : List Micro) : (s.push ms).last = s.last := rfl
@[simp] theorem State.push_lastNotify (s : State) (ms : List Micro) : (s.push ms).lastNotify = s.lastNotify := rfl
@[simp] theorem State.push_lastPoll (s : State) (ms : List Micro) : (s.push ms).lastPoll = s.lastPoll := rfl
@[simp] theorem State.push_msClock (s : State) (ms : List Micro) : (s.push ms).msClock = s.msClock := rfl
@[simp] theorem State.push_ie (s : State) (ms : List Micro) : (s.push ms).ie = s.ie := rfl
@[simp] theorem State.push_run (s : State) (ms : List Micro) : (s.push ms).run = s.run := rfl
@[simp] theorem State.push_wdtArmed (s : State) (ms : List Micro) : (s.push ms).wdtArmed = s.wdtArmed := rfl
@[simp] theorem State.push_schedPhase (s : State) (ms : List Micro) : (s.push ms).schedPhase = s.schedPhase := rfl
@[simp] theorem State.push_isrActive (s : State) (ms : List Micro) : (s.push ms).isrActive = s.isrActive := rfl
@[simp] theorem State.push_txReady (s : State) (ms : List Micro) : (s.push ms).txReady = s.txReady := rfl
@[simp] theorem State.push_pinIn (s : State) (ms : List Micro) : (s.push ms).pinIn = s.pinIn := rfl
@[simp] theorem State.push_adcIn (s : State) (ms : List Micro) : (s.push ms).adcIn = s.adcIn := rfl
@[simp] theorem State.push_wireOut (s : State) (ms : List Micro) : (s.push ms).wireOut = s.wireOut := rfl
@[simp] theorem State.push_drvLog (s : State) (ms : List Micro) : (s.push ms).drvLog = s.drvLog := rfl
@[simp] theorem State.push_main (s : State) (ms : List Micro) : (s.push ms).main = ms ++ s.main := rfl
@[simp] theorem State.push_ret (s : State) (ms : List Micro) : (s.push ms).ret = s.ret := rfl
@[simp] theorem State.push_startPending (s : State) (ms : List Micro) : (s.push ms).startPending = s.startPending := rfl
@[simp] theorem State.push_requests (s : State) (ms : List Micro) : (s.push ms).requests = s.requests := rfl
@[simp] theorem State.push_env (s : State) (ms : List Micro) : (s.push ms).env = s.env := rfl
@[simp] theorem State.push_draws (s : State) (ms : List Micro) : (s.push ms).draws = s.draws := rfl
@[simp] theorem State.push_ring (s : State) (ms : List Micro) (q : Queue) : (s.push ms).ring q = s.ring q := rfl

/-! ### critEnter -/

@[simp] theorem State.critEnter_cfg (s : State) : (critEnter s).cfg = s.cfg := rfl
@[simp] theorem State.critEnter_rx (s : State) : (critEnter s).rx = s.rx := rfl
@[simp] theorem State.critEnter_tx (s : State) : (critEnter s).tx = s.tx := rfl
@[simp] theorem State.critEnter_txIrqEn (s : State) : (critEnter s).txIrqEn = s.txIrqEn := rfl
@[simp] theorem State.critEnter_lf (s : State) : (critEnter s).lf = s.lf := rfl
@[simp] theorem State.critEnter_mask (s : State) : (critEnter s).mask = s.mask := rfl
@[simp] theorem State.critEnter_last (s : State) : (critEnter s).last = s.last := rfl
@[simp] theorem State.critEnter_lastNotify (s : State) : (critEnter s).lastNotify = s.lastNotify := rfl
@[simp] theorem State.critEnter_lastPoll (s : State) : (critEnter s).lastPoll = s.lastPoll := rfl
@[simp] theorem State.critEnter_msClock (s : State) : (critEnter s).msClock = s.msClock := rfl
@[simp] theorem State.critEnter_ie (s : State) : (critEnter s).ie = false := rfl
@[simp] theorem State.critEnter_run (s : State) : (critEnter s).run = s.run := rfl
@[simp] theorem State.critEnter_wdtArmed (s : State) : (critEnter s).wdtArmed = s.wdtArmed := rfl
@[simp] theorem State.critEnter_schedPhase (s : State) : (critEnter s).schedPhase = s.schedPhase := rfl
@[simp] theorem State.critEnter_isrActive (s : State) : (critEnter s).isrActive = s.isrActive := rfl
@[simp] theorem State.critEnter_txReady (s : State) : (critEnter s).txReady = s.txReady := rfl
@[simp] theorem State.critEnter_pinIn (s : State) : (critEnter s).pinIn = s.pinIn := rfl
@[simp] theorem State.critEnter_adcIn (s : State) : (critEnter s).adcIn = s.adcIn := rfl
@[simp] theorem State.critEnter_wireOut (s : State) : (critEnter s).wireOut = s.wireOut := rfl
@[simp] theorem State.critEnter_drvLog (s : State) : (critEnter s).drvLog = s.drvLog := rfl
@[simp] theorem State.critEnter_main (s : State) : (critEnter s).main = s.main := rfl
@[simp] theorem State.critEnter_ret (s : State) : (critEnter s).ret = .saved s.ie := rfl
@[simp] theorem State.critEnter_startPending (s : State) : (critEnter s).startPending = s.startPending := rfl
@[simp] theorem State.critEnter_requests (s : State) : (critEnter s).requests = s.requests := rfl
@[simp] theorem State.critEnter_env (s : State) : (critEnter s).env = s.env := rfl
@[simp] theorem State.critEnter_draws (s : State) : (critEnter s).draws = s.draws := rfl
@[simp] theorem State.critEnter_ring (s : State) (q : Queue) : (critEnter s).ring q = s.ring q := rfl

/-! ### critExit -/

@[simp] theorem State.critExit_cfg (s : State) (b : Bool) : (critExit b s).cfg = s.cfg := rfl
@[simp] theorem State.critExit_rx (s : State) (b : Bool) : (critExit b s).rx = s.rx := rfl
@[simp] theorem State.critExit_tx (s : State) (b : Bool) : (critExit b s).tx = s.tx := rfl
@[simp] theorem State.critExit_txIrqEn (s : State) (b : Bool) : (critExit b s).txIrqEn = s.txIrqEn := rfl
@[simp] theorem State.critExit_lf (s : State) (b : Bool) : (critExit b s).lf = s.lf := rfl
@[simp] theorem State.critExit_mask (s : State) (b : Bool) : (critExit b s).mask = s.mask := rfl
@[simp] theorem State.critExit_last (s : State) (b : Bool) : (critExit b s).last = s.last := rfl
@[simp] theorem State.critExit_lastNotify (s : State) (b : Bool) : (critExit b s).lastNotify = s.lastNotify := rfl
@[simp] theorem State.critExit_lastPoll (s : State) (b : Bool) : (critExit b s).lastPoll = s.lastPoll := rfl
@[simp] theorem State.critExit_msClock (s : State) (b : Bool) : (critExit b s).msClock = s.msClock := rfl
@[simp] theorem State.critExit_ie (s : State) (b : Bool) : (critExit b s).ie = b := rfl
@[simp] theorem State.critExit_run (s : State) (b : Bool) : (critExit b s).run = s.run := rfl
@[simp] theorem State.critExit_wdtArmed (s : State) (b : Bool) : (critExit b s).wdtArmed = s.wdtArmed := rfl
@[simp] theorem State.critExit_schedPhase (s : State) (b : Bool) : (critExit b s).schedPhase = s.schedPhase := rfl
@[simp] theorem State.critExit_isrActive (s : State) (b : Bool) : (critExit b s).isrActive = s.isrActive := rfl
@[simp] theorem State.critExit_txReady (s : State) (b : Bool) : (critExit b s).txReady = s.txReady := rfl
@[simp] theorem State.critExit_pinIn (s : State) (b : Bool) : (critExit b s).pinIn = s.pinIn := rfl
@[simp] theorem State.critExit_adcIn (s : State) (b : Bool) : (critExit b s).adcIn = s.adcIn := rfl
@[simp] theorem State.critExit_wireOut (s : State) (b : Bool) : (critExit b s).wireOut = s.wireOut := rfl
@[simp] theorem State.critExit_drvLog (s : State) (b : Bool) : (critExit b s).drvLog = s.drvLog := rfl
@[simp] theorem State.critExit_main (s : State) (b : Bool) : (critExit b s).main = s.main := rfl
@[simp] theorem State.critExit_ret (s : State) (b : Bool) : (critExit b s).ret = s.ret := rfl
@[simp] theorem State.critExit_startPending (s : State) (b : Bool) : (critExit b s).startPending = s.startPending := rfl
@[simp] theorem State.critExit_requests (s : State) (b : Bool) : (critExit b s).requests = s.requests := rfl
@[simp] theorem State.critExit_env (s : State) (b : Bool) : (critExit b s).env = s.env := rfl
@[simp] theorem State.critExit_draws (s : State) (b : Bool) : (critExit b s).draws = s.draws := rfl
@[simp] theorem State.critExit_ring (s : State) (b : Bool) (q : Queue) : (critExit b s).ring q = s.ring q := rfl

/-! ### watchPin -/

@[simp] theorem State.watchPin_cfg (s : State) (p : Nat) (i : Pin) : (watchPin p i s).cfg = s.cfg := rfl
@[simp] theorem State.watchPin_rx (s : State) (p : Nat) (i : Pin) : (watchPin p i s).rx = s.rx := rfl
@[simp] theorem State.watchPin_tx (s : State) (p : Nat) (i : Pin) : (watchPin p i s).tx = s.tx := rfl
@[simp] theorem State.watchPin_txIrqEn (s : State) (p : Nat) (i : Pin) : (watchPin p i s).txIrqEn = s.txIrqEn := rfl
@[simp] theorem State.watchPin_lf (s : State) (p : Nat) (i : Pin) : (watchPin p i s).lf = s.lf := rfl
@[simp] theorem State.watchPin_mask (s : State) (p : Nat) (i : Pin) : (watchPin p i s).mask = s.mask.set p (s.maskOf p ||| pinMask i) := rfl
@[simp] theorem State.watchPin_last (s : State) (p : Nat) (i : Pin) : (watchPin p i s).last = s.last := rfl
@[simp] theorem State.watchPin_lastNotify (s : State) (p : Nat) (i : Pin) : (watchPin p i s).lastNotify = s.lastNotify := rfl
@[simp] theorem State.watchPin_lastPoll (s : State) (p : Nat) (i : Pin) : (watchPin p i s).lastPoll = s.lastPoll := rfl
@[simp] theorem State.watchPin_msClock (s : State) (p : Nat) (i : Pin) : (watchPin p i s).msClock = s.msClock := rfl
@[simp] theorem State.watchPin_ie (s : State) (p : Nat) (i : Pin) : (watchPin p i s).ie = s.ie := rfl
@[simp] theorem State.watchPin_run (s : State) (p : Nat) (i : Pin) : (watchPin p i s).run = s.run := rfl
@[simp] theorem State.watchPin_wdtArmed (s : State) (p : Nat) (i : Pin) : (watchPin p i s).wdtArmed = s.wdtArmed := rfl
@[simp] theorem State.watchPin_schedPhase (s : State) (p : Nat) (i : Pin) : (watchPin p i s).schedPhase = s.schedPhase := rfl
@[simp] theorem State.watchPin_isrActive (s : State) (p : Nat) (i : Pin) : (watchPin p i s).isrActive = s.isrActive := rfl
@[simp] theorem State.watchPin_txReady (s : State) (p : Nat) (i : Pin) : (watchPin p i s).txReady = s.txReady := rfl
@[simp] theorem State.watchPin_pinIn (s : State) (p : Nat) (i : Pin) : (watchPin p i s).pinIn = s.pinIn := rfl
@[simp] theorem State.watchPin_adcIn (s : State) (p : Nat) (i : Pin) : (watchPin p i s).adcIn = s.adcIn := rfl
@[simp] theorem State.watchPin_wireOut (s : State) (p : Nat) (i : Pin) : (watchPin p i s).wireOut = s.wireOut := rfl
@[simp] theorem State.watchPin_drvLog (s : State) (p : Nat) (i : Pin) : (watchPin p i s).drvLog = s.drvLog := rfl
@[simp] theorem State.watchPin_main (s : State) (p : Nat) (i : Pin) : (watchPin p i s).main = s.main := rfl
@[simp] theorem State.watchPin_ret (s : State) (p : Nat) (i : Pin) : (watchPin p i s).ret = s.ret := rfl
@[simp] theorem State.watchPin_startPending (s : State) (p : Nat) (i : Pin) : (watchPin p i s).startPending = s.startPending := rfl
@[simp] theorem State.watchPin_requests (s : State) (p : Nat) (i : Pin) : (watchPin p i s).requests = s.requests := rfl
@[simp] theorem State.watchPin_env (s : State) (p : Nat) (i : Pin) : (watchPin p i s).env = s.env := rfl
@[simp] theorem State.watchPin_draws (s : State) (p : Nat) (i : Pin) : (watchPin p i s).draws = s.draws := rfl
@[simp] theorem State.watchPin_ring (s : State) (p : Nat) (i : Pin) (q : Queue) : (watchPin p i s).ring q = s.ring q := rfl

/-! ### unwatchPin -/

@[simp] theorem State.unwatchPin_cfg (s : State) (p : Nat) (i : Pin) : (unwatchPin p i s).cfg = s.cfg := rfl
@[simp] theorem State.unwatchPin_rx (s : State) (p : Nat) (i : Pin) : (unwatchPin p i s).rx = s.rx := rfl
@[simp] theorem State.unwatchPin_tx (s : State) (p : Nat) (i : Pin) : (unwatchPin p i s).tx = s.tx := rfl
@[simp] theorem State.unwatchPin_txIrqEn (s : State) (p : Nat) (i : Pin) : (unwatchPin p i s).txIrqEn = s.txIrqEn := rfl
@[simp] theorem State.unwatchPin_lf (s : State) (p : Nat) (i : Pin) : (unwatchPin p i s).lf = s.lf := rfl
@[simp] theorem State.unwatchPin_mask (s : State) (p : Nat) (i : Pin) : (unwatchPin p i s).mask = s.mask.set p (s.maskOf p &&& ~~~ pinMask i) := rfl
@[simp] theorem State.unwatchPin_last (s : State) (p : Nat) (i : Pin) : (unwatchPin p i s).last = s.last := rfl
@[simp] theorem State.unwatchPin_lastNotify (s : State) (p : Nat) (i : Pin) : (unwatchPin p i s).lastNotify = s.lastNotify := rfl
@[simp] theorem State.unwatchPin_lastPoll (s : State) (p : Nat) (i : Pin) : (unwatchPin p i s).lastPoll = s.lastPoll := rfl
@[simp] theorem State.unwatchPin_msClock (s : State) (p : Nat) (i : Pin) : (unwatchPin p i s).msClock = s.msClock := rfl
@[simp] theorem State.unwatchPin_ie (s : State) (p : Nat) (i : Pin) : (unwatchPin p i s).ie = s.ie := rfl
@[simp] theorem State.unwatchPin_run (s : State) (p : Nat) (i : Pin) : (unwatchPin p i s).run = s.run := rfl
@[simp] theorem State.unwatchPin_wdtArmed (s : State) (p : Nat) (i : Pin) : (unwatchPin p i s).wdtArmed = s.wdtArmed := rfl
@[simp] theorem State.unwatchPin_schedPhase (s : State) (p : Nat) (i : Pin) : (unwatchPin p i s).schedPhase = s.schedPhase := rfl
@[simp] theorem State.unwatchPin_isrActive (s : State) (p : Nat) (i : Pin) : (unwatchPin p i s).isrActive = s.isrActive := rfl
@[simp] theorem State.unwatchPin_txReady (s : State) (p : Nat) (i : Pin) : (unwatchPin p i s).txReady = s.txReady := rfl
@[simp] theorem State.unwatchPin_pinIn (s : State) (p : Nat) (i : Pin) : (unwatchPin p i s).pinIn = s.pinIn := rfl
@[simp] theorem State.unwatchPin_adcIn (s : State) (p : Nat) (i : Pin) : (unwatchPin p i s).adcIn = s.adcIn := rfl
@[simp] theorem State.unwatchPin_wireOut (s : State) (p : Nat) (i : Pin) : (unwatchPin p i s).wireOut = s.wireOut := rfl
@[simp] theorem State.unwatchPin_drvLog (s : State) (p : Nat) (i : Pin) : (unwatchPin p i s).drvLog = s.drvLog := rfl
@[simp] theorem State.unwatchPin_main (s : State) (p : Nat) (i : Pin) : (unwatchPin p i s).main = s.main := rfl
@[simp] theorem State.unwatchPin_ret (s : State) (p : Nat) (i : Pin) : (unwatchPin p i s).ret = s.ret := rfl
@[simp] theorem State.unwatchPin_startPending (s : State) (p : Nat) (i : Pin) : (unwatchPin p i s).startPending = s.startPending := rfl
@[simp] theorem State.unwatchPin_requests (s : State) (p : Nat) (i : Pin) : (unwatchPin p i s).requests = s.requests := rfl
@[simp] theorem State.unwatchPin_env (s : State) (p : Nat) (i : Pin) : (unwatchPin p i s).env = s.env := rfl
@[simp] theorem State.unwatchPin_draws (s : State) (p : Nat) (i : Pin) : (unwatchPin p i s).draws = s.draws := rfl
@[simp] theorem State.unwatchPin_ring (s : State) (p : Nat) (i : Pin) (q : Queue) : (unwatchPin p i s).ring q = s.ring q := rfl

/-! ### What `MAIN` has left, outermost -/

@[simp] theorem State.setMain_setRing (s : State) (ms : List Micro) (q : Queue) (r : Ring) :
    (s.setMain ms).setRing q r = (s.setRing q r).setMain ms := rfl

@[simp] theorem State.setMain_setRd (s : State) (ms : List Micro) (q : Queue) (v : Nat) :
    (s.setMain ms).setRd q v = (s.setRd q v).setMain ms := rfl

@[simp] theorem State.setMain_setWr (s : State) (ms : List Micro) (q : Queue) (v : Nat) :
    (s.setMain ms).setWr q v = (s.setWr q v).setMain ms := rfl

@[simp] theorem State.setMain_withRet (s : State) (ms : List Micro) (v : Ret) :
    (s.setMain ms).withRet v = (s.withRet v).setMain ms := rfl

@[simp] theorem State.setMain_setIrqEn (s : State) (ms : List Micro) (c : Channel) (v : Bool) :
    (s.setMain ms).setIrqEn c v = (s.setIrqEn c v).setMain ms := rfl

@[simp] theorem State.setMain_setLf (s : State) (ms : List Micro) (c : Channel) (l : LineBuf) :
    (s.setMain ms).setLf c l = (s.setLf c l).setMain ms := rfl

@[simp] theorem State.setMain_logDrv (s : State) (ms : List Micro) (a : DrvAction) :
    (s.setMain ms).logDrv a = (s.logDrv a).setMain ms := rfl

@[simp] theorem State.setMain_setMain (s : State) (ms ns : List Micro) : (s.setMain ms).setMain ns = s.setMain ns := rfl

@[simp] theorem State.setMain_push (s : State) (ms ns : List Micro) : (s.setMain ms).push ns = s.setMain (ns ++ ms) := rfl

@[simp] theorem State.setMain_main_self (s : State) : s.setMain s.main = s := rfl

@[simp] theorem State.setMain_afterEmit (s : State) (ms : List Micro) (c : Channel) (b : Byte) :
    afterEmit c b (s.setMain ms) = (afterEmit c b s).setMain ms := rfl

@[simp] theorem State.setMain_isFull (s : State) (ms : List Micro) (q : Queue) : (s.setMain ms).isFull q = s.isFull q := rfl

@[simp] theorem State.setMain_isEmpty (s : State) (ms : List Micro) (q : Queue) :
    (s.setMain ms).isEmpty q = s.isEmpty q := rfl

@[simp] theorem State.setMain_count (s : State) (ms : List Micro) (q : Queue) : (s.setMain ms).count q = s.count q := rfl

@[simp] theorem State.setMain_queued (s : State) (ms : List Micro) (q : Queue) : (s.setMain ms).queued q = s.queued q := rfl


end Machine

end Sys2Proof
end

