-- ==== Sys2Proof/Laws/Memory.lean ====
section
/-!
SUPPORT. The laws of a byte array: a read after a write, and that a write keeps the canonical form and the bounds.
-/
namespace Sys2Proof.Machine

@[simp] theorem Memory.read_write_same (m : Memory) (i : Nat) (b : Byte) : Memory.read (Memory.write m i b) i = some b := by
  induction m with
  | nil => simp [Memory.write, Memory.read]
  | cons e rest ih =>
    obtain ⟨j, x⟩ := e
    unfold Memory.write
    split
    · simp [Memory.read]
    · split
      · simp [Memory.read]
      · rename_i h1 h2
        have : ¬ j = i := fun h => h2 h.symm
        simp [Memory.read, this, ih]

theorem Memory.read_write_ne (m : Memory) {i k : Nat} (b : Byte) (h : k ≠ i) :
    Memory.read (Memory.write m i b) k = Memory.read m k := by
  induction m with
  | nil => simp [Memory.write, Memory.read, Ne.symm h]
  | cons e rest ih =>
    obtain ⟨j, x⟩ := e
    unfold Memory.write
    split
    · simp [Memory.read, Ne.symm h]
    · split
      · rename_i h2
        subst h2
        simp [Memory.read, Ne.symm h]
      · simp [Memory.read, ih]

/-- Every index a write lists is the written one or was listed before. -/
theorem Memory.mem_write {m : Memory} {i : Nat} {b : Byte} {e : Host.Cell} (h : e ∈ Memory.write m i b) :
    e.1 = i ∨ e ∈ m := by
  induction m with
  | nil => simp_all [Memory.write]
  | cons d rest ih =>
    obtain ⟨j, x⟩ := d
    unfold Memory.write at h
    split at h
    · rcases List.mem_cons.mp h with rfl | h
      · exact .inl rfl
      · exact .inr h
    · split at h
      · rcases List.mem_cons.mp h with rfl | h
        · exact .inl rfl
        · exact .inr (List.mem_cons_of_mem _ h)
      · rcases List.mem_cons.mp h with rfl | h
        · exact .inr (List.mem_cons_self ..)
        · rcases ih h with h | h
          · exact .inl h
          · exact .inr (List.mem_cons_of_mem _ h)

/-- A write keeps the indices strictly rising. -/
theorem Memory.wf_write {m : Memory} (i : Nat) (b : Byte) (h : Memory.wf m) : Memory.wf (Memory.write m i b) := by
  induction m with
  | nil => simp [Memory.write, Memory.wf]
  | cons d rest ih =>
    obtain ⟨j, x⟩ := d
    have hr := List.pairwise_cons.mp h
    unfold Memory.write
    split
    · rename_i hij
      refine List.pairwise_cons.mpr ⟨fun e he => ?_, h⟩
      rcases List.mem_cons.mp he with rfl | he
      · exact hij
      · exact Nat.lt_trans hij (hr.1 e he)
    · split
      · rename_i hij
        subst hij
        exact List.pairwise_cons.mpr ⟨hr.1, hr.2⟩
      · refine List.pairwise_cons.mpr ⟨fun e he => ?_, ih hr.2⟩
        rcases Memory.mem_write he with h' | h'
        · show j < e.1
          omega
        · exact hr.1 e h'

/-- A write inside the array keeps every listed index inside. -/
theorem Memory.bound_write {m : Memory} {n i : Nat} (b : Byte) (hi : i < n) (h : ∀ e ∈ m, e.1 < n) :
    ∀ e ∈ Memory.write m i b, e.1 < n := by
  intro e he
  rcases Memory.mem_write he with h' | h'
  · omega
  · exact h e h'

theorem memRead_ok {a : ArrayId} {n i : Nat} {m : Memory} {b : Byte} :
    memRead a n m i = .ok b ↔ i < n ∧ Memory.read m i = some b := by
  unfold memRead
  split
  · rename_i h
    cases hm : Memory.read m i <;> simp [h]
  · rename_i h
    simp [h]

theorem memWrite_ok {a : ArrayId} {n i : Nat} {m m' : Memory} {b : Byte} :
    memWrite a n m i b = .ok m' ↔ i < n ∧ m' = Memory.write m i b := by
  unfold memWrite
  split
  · rename_i h
    simp [h, eq_comm]
  · rename_i h
    simp [h]

end Sys2Proof.Machine
end

