-- ==== Sys2Proof/Laws/Ring.lean ====
section
/-!
SUPPORT. What the shared operations on ring buffers, transmit register and handlers can do, said once each.
-/
namespace Sys2Proof.Machine

/-! ### Sequencing -/

@[simp] theorem andThen_next (s : State) (f : State → Res) : andThen (.next s) f = f s := rfl
@[simp] theorem andThen_fault (e : Fault) (f : State → Res) : andThen (.fault e) f = .fault e := rfl
@[simp] theorem andThen_refused (e : Refusal) (f : State → Res) : andThen (.refused e) f = .refused e := rfl

theorem andThen_assoc (r : Res) (f g : State → Res) : andThen (andThen r f) g = andThen r fun s => andThen (f s) g := by
  cases r <;> rfl

/-- A sequence answers a next state exactly when both parts do. -/
theorem andThen_eq_next {r : Res} {f : State → Res} {t : State} :
    andThen r f = .next t ↔ ∃ s, r = .next s ∧ f s = .next t := by
  cases r <;> simp [andThen]

/-! ### Index arithmetic -/

theorem nextIndex_lt {n : Nat} (i : Nat) (h : 0 < n) : nextIndex n i < n := Nat.mod_lt _ h

theorem nextIndex_eq {n i : Nat} (h : i < n) : nextIndex n i = if i + 1 = n then 0 else i + 1 := by
  unfold nextIndex
  split
  · rename_i h'
    simp [h']
  · exact Nat.mod_eq_of_lt (by omega)

/-- The fill count without integers: for reduced indices. -/
theorem ringCount_eq {n rd wr : Nat} (hr : rd < n) (hw : wr < n) :
    ringCount n rd wr = if rd ≤ wr then wr - rd else wr + n - rd := by
  unfold ringCount
  split
  · rename_i h
    rw [Int.emod_eq_of_lt (by omega) (by omega)]
    omega
  · rename_i h
    rw [← Int.add_emod_right, Int.emod_eq_of_lt (by omega) (by omega)]
    omega

@[simp] theorem State.capacity_of_cfg {s t : State} (q : Queue) (h : t.cfg = s.cfg) : t.capacity q = s.capacity q := by
  simp [State.capacity, h]

theorem State.wf.capacity_ge {s : State} (h : s.wf) (q : Queue) : 2 ≤ s.capacity q := by
  have hc := h.cfg
  obtain ⟨c, d⟩ := q
  obtain ⟨⟨h0, h1, h2, h3⟩, ⟨g0, g1, g2, g3⟩, _⟩ := hc
  cases d <;> cases c
  · exact h0.1
  · exact h1.1
  · exact h2.1
  · exact h3.1
  · exact g0.1
  · exact g1.1
  · exact g2.1
  · exact g3.1

/-! ### Slots -/

theorem writeSlot_eq {q : Queue} {i : Nat} (b : Byte) {s : State} (h : i < s.capacity q) :
    writeSlot q i b s = .next (s.setRing q { s.ring q with store := Memory.write (s.ring q).store i b }) := by
  unfold writeSlot
  rw [(memWrite_ok (m' := Memory.write (s.ring q).store i b)).mpr ⟨h, rfl⟩]

/-- If `writeSlot` answers a next state, the index was inside the array and only that slot changed. -/
theorem writeSlot_next {q : Queue} {i : Nat} {b : Byte} {s t : State} (h : writeSlot q i b s = .next t) :
    i < s.capacity q ∧ t = s.setRing q { s.ring q with store := Memory.write (s.ring q).store i b } := by
  unfold writeSlot at h
  split at h
  · rename_i m hm
    obtain ⟨hi, rfl⟩ := memWrite_ok.mp hm
    exact ⟨hi, (Host.Outcome.next.inj h).symm⟩
  · cases h

theorem readSlot_ok {q : Queue} {i : Nat} {b : Byte} {s : State} :
    readSlot q i s = .ok b ↔ i < s.capacity q ∧ Memory.read (s.ring q).store i = some b := memRead_ok

/-! ### Handlers -/

/-- If `wire` answers a next state, the transmitter was ready and the byte is on the wire. -/
theorem wire_next {c : Channel} {b : Byte} {s t : State} (h : wire c b s = .next t) :
    s.txReady.get c = true ∧
      t = { s with wireOut := s.wireOut.set c (s.wireOut.get c ++ [b]), txReady := s.txReady.set c false } := by
  unfold wire at h
  split at h
  · rename_i hr
    exact ⟨hr, (Host.Outcome.next.inj h).symm⟩
  · cases h

/-- If a handler answers a next state, its body did, from the state with `isr_active` set. -/
theorem asHandler_next {body : State → Res} {s t : State} (h : asHandler body s = .next t) :
    ∃ u, body { s with isrActive := true } = .next u ∧ t = { u with isrActive := false } := by
  obtain ⟨u, hu, ht⟩ := andThen_eq_next.mp h
  exact ⟨u, hu, (Host.Outcome.next.inj ht).symm⟩

/-- Everything a pop inside a handler can do. -/
theorem popAtomic_ok {q : Queue} {s t : State} {r : Option Byte} (h : popAtomic q s = .ok (r, t)) :
    (r = none ∧ t = s ∧ s.isEmpty q = true) ∨
      ∃ b, r = some b ∧ s.isEmpty q = false ∧ readSlot q (s.ring q).rd s = .ok b ∧
        t = s.setRd q (nextIndex (s.capacity q) (s.ring q).rd) := by
  unfold popAtomic at h
  split at h
  · rename_i he
    cases h
    exact .inl ⟨rfl, rfl, he⟩
  · rename_i he
    split at h
    · rename_i b hb
      cases h
      exact .inr ⟨b, rfl, by simpa using he, hb, rfl⟩
    · cases h

/-- Everything a drop-oldest push can do: the byte stored at the old `wr`, `wr` advanced, and `rd` advanced exactly when
the buffer was full. -/
theorem pushDropOldest_next {q : Queue} {b : Byte} {s t : State} (h : pushDropOldest q b s = .next t) :
    (s.ring q).wr < s.capacity q ∧
      t = s.setRing q
        { store := Memory.write (s.ring q).store (s.ring q).wr b
          rd := if s.isFull q then nextIndex (s.capacity q) (s.ring q).rd else (s.ring q).rd
          wr := nextIndex (s.capacity q) (s.ring q).wr } := by
  unfold pushDropOldest at h
  obtain ⟨u, hu, ht⟩ := andThen_eq_next.mp h
  obtain ⟨hi, rfl⟩ := writeSlot_next hu
  have ht := Host.Outcome.next.inj ht
  subst ht
  by_cases hf : s.isFull q = true
  · simp only [hf, if_true] at hi ⊢
    refine ⟨by simpa [State.setRd, State.capacity] using hi, ?_⟩
    simp [State.setRd, State.setWr]
  · simp only [hf] at hi ⊢
    exact ⟨hi, by simp [State.setWr]⟩

/-- A drop-oldest push into a buffer with a reduced `wr` completes. -/
theorem pushDropOldest_eq {q : Queue} (b : Byte) {s : State} (h : (s.ring q).wr < s.capacity q) :
    pushDropOldest q b s = .next (s.setRing q
        { store := Memory.write (s.ring q).store (s.ring q).wr b
          rd := if s.isFull q then nextIndex (s.capacity q) (s.ring q).rd else (s.ring q).rd
          wr := nextIndex (s.capacity q) (s.ring q).wr }) := by
  unfold pushDropOldest
  by_cases hf : s.isFull q = true
  · simp only [hf, if_true]
    rw [writeSlot_eq b (by simpa [State.setRd, State.capacity] using h)]
    simp [State.setRd, State.setWr]
  · simp only [hf]
    rw [if_neg (by simp), writeSlot_eq b h]
    simp [State.setWr]

end Sys2Proof.Machine
end

