-- ==== Sys2Proof/Laws/Run.lean ====
section
/-!
SUPPORT. How `MAIN` runs: the laws of `runTurns`, and what one transmit does when `I = 1` and nothing else moves.
-/
namespace Sys2Proof.Machine

/-- A settled state stays. -/
theorem runTurns_settled {s : State} (h : s.settled = true) : ∀ n, runTurns n s = .next s
  | 0 => rfl
  | n + 1 => by simp [runTurns, h]

theorem runTurns_succ {s : State} (h : s.settled = false) (n : Nat) :
    runTurns (n + 1) s = andThen (turn s) (runTurns n) := by
  simp [runTurns, h]

/-- Turns can be taken in two parts. -/
theorem runTurns_add (m n : Nat) (s : State) : runTurns (m + n) s = andThen (runTurns m s) (runTurns n) := by
  induction m generalizing s with
  | zero => simp [runTurns]
  | succ m ih =>
    rw [Nat.succ_add]
    by_cases h : s.settled = true
    · simp [runTurns, h, runTurns_settled]
    · have h' : s.settled = false := by simpa using h
      rw [runTurns_succ h', runTurns_succ h', andThen_assoc]
      congr 1
      funext t
      exact ih t

/-- If fewer turns settle the state, more give the same. -/
theorem runTurns_of_settled {m n : Nat} {s t : State} (hmn : m ≤ n) (h : runTurns m s = .next t)
    (ht : t.settled = true) : runTurns n s = .next t := by
  obtain ⟨k, rfl⟩ := Nat.exists_eq_add_of_le hmn
  rw [runTurns_add, h, andThen_next, runTurns_settled ht]

/-- `MAIN` alone (no turn scheduled), running, not at an `await` that does not hold, takes its next access. -/
theorem runTurns_access {s : State} (hr : s.run = .running) (he : s.env = []) (m : Micro) (rest : List Micro)
    (hw : (s.setMain (m :: rest)).waiting = false) (n : Nat) :
    runTurns (n + 1) (s.setMain (m :: rest)) = andThen (access m (s.setMain rest)) (runTurns n) := by
  have hs : (s.setMain (m :: rest)).settled = false := by
    simp [State.settled, State.idle, hr, hw]
  have ht : turn (s.setMain (m :: rest)) = access m (s.setMain rest) := by
    unfold turn
    rw [State.setMain_env, he]
    rfl
  rw [runTurns_succ hs, ht]

/-- A state with nothing left to do is settled. -/
theorem settled_of_done {s : State} (h : s.main = []) : s.settled = true := by simp [State.settled, State.idle, h]

/-! ### Invariants, each induction said once -/

/-- A turn is an access of `MAIN` or a turn of the schedule. -/
theorem turn_next {s t : State} (h : turn s = .next t) :
    (s.env = [] ∧ mainAccess s = .next t) ∨
      (∃ rest, s.env = .main :: rest ∧ mainAccess (s.setEnv rest) = .next t) ∨
      ∃ e rest, s.env = e :: rest ∧ e ≠ .main ∧ deliver e (s.setEnv rest) = .next t := by
  unfold turn at h
  split at h
  · rename_i rest he
    exact .inr (.inl ⟨rest, he, h⟩)
  · rename_i e rest hne he
    exact .inr (.inr ⟨e, rest, he, hne, h⟩)
  · rename_i he
    exact .inl ⟨he, h⟩

/-- What every turn of an unsettled state keeps, `runTurns` keeps. -/
theorem runTurns_keeps {P : State → Prop}
    (hturn : ∀ s t, P s → s.settled = false → turn s = .next t → P t) :
    ∀ (n : Nat) {s t : State}, P s → runTurns n s = .next t → P t := by
  intro n
  induction n with
  | zero =>
    intro s t hs h
    exact Host.Outcome.next.inj h ▸ hs
  | succ n ih =>
    intro s t hs h
    by_cases hset : s.settled = true
    · rw [runTurns_settled hset] at h
      exact Host.Outcome.next.inj h ▸ hs
    · have hset : s.settled = false := by simpa using hset
      rw [runTurns_succ hset] at h
      obtain ⟨u, hu, ht⟩ := andThen_eq_next.mp h
      exact ih (hturn s u hs hset hu) ht

/-- Everything an operation of `MAIN` can do: nothing while `MAIN` is stopped, otherwise turns from the state with the
operation queued behind what `MAIN` was doing. -/
theorem byMain_next {i : Instr} {s t : State} (h : byMain i s = .next t) :
    (s.run ≠ .running ∧ t = s) ∨
      (s.run = .running ∧ runTurns (s.setMain (s.main ++ [.call i])).budget (s.setMain (s.main ++ [.call i])) = .next t) := by
  unfold byMain at h
  split at h
  · rename_i hr
    exact .inr ⟨hr, h⟩
  · rename_i hr
    exact .inl ⟨hr, (Host.Outcome.next.inj h).symm⟩

/-- Everything a step can do: run the request the decoder accepts, or, without a request, the loop of `MAIN`, or, with `MAIN`
stopped, the environment. -/
theorem step_next {s t : State} (h : step s = .next t) :
    (∃ r rest i, s.requests = r :: rest ∧ decode r = .ok i ∧ exec i { s with requests := rest } = .next t) ∨
      (s.requests = [] ∧ s.run = .running ∧ mainLoop s = .next t) ∨
      (s.requests = [] ∧ s.run ≠ .running ∧ envStep s = .next t) := by
  unfold step at h
  split at h
  · rename_i r rest hreq
    split at h
    · rename_i i hi
      exact .inl ⟨r, rest, i, hreq, hi, h⟩
    · cases h
  · rename_i hreq
    split at h
    · rename_i hr
      exact .inr (.inl ⟨hreq, hr, h⟩)
    · rename_i hr
      exact .inr (.inr ⟨hreq, hr, h⟩)

/-! ### One operation at a time, alone -/

section
variable {s : State} (hr : s.run = .running) (he : s.env = [])
include hr he

theorem runTurns_call (i : Instr) (rest : List Micro) (n : Nat) :
    runTurns (n + 1) (s.setMain (.call i :: rest)) = andThen (callInstr i (s.setMain rest)) (runTurns n) :=
  runTurns_access hr he (.call i) rest rfl n

/-- `RB.FULL` takes two accesses. -/
theorem runTurns_rbFull (q : Queue) (rest : List Micro) (n : Nat) :
    runTurns (n + 2) (s.setMain (.call (.rbFull q) :: rest)) =
      runTurns n ((s.withRet (.bool (s.isFull q))).setMain rest) := by
  rw [runTurns_call hr he]
  exact runTurns_access hr he (.fullRd q (s.ring q).wr) rest rfl n

/-- `RB.EMPTY` takes two accesses. -/
theorem runTurns_rbEmpty (q : Queue) (rest : List Micro) (n : Nat) :
    runTurns (n + 2) (s.setMain (.call (.rbEmpty q) :: rest)) =
      runTurns n ((s.withRet (.bool (s.isEmpty q))).setMain rest) := by
  rw [runTurns_call hr he]
  exact runTurns_access hr he (.emptyWr q (s.ring q).rd) rest rfl n

/-- `RB.PUSH` with room takes four accesses. -/
theorem runTurns_rbPush {q : Queue} (hf : s.isFull q = false) (hw : (s.ring q).wr < s.capacity q) (b : Byte)
    (rest : List Micro) (n : Nat) :
    runTurns (n + 4) (s.setMain (.call (.rbPush q b) :: rest)) =
      runTurns n (((s.setRing q
        { store := Memory.write (s.ring q).store (s.ring q).wr b
          rd := (s.ring q).rd
          wr := nextIndex (s.capacity q) (s.ring q).wr }).withRet (.bool true)).setMain rest) := by
  have hf' : nextIndex (s.capacity q) (s.ring q).wr ≠ (s.ring q).rd := by simpa [State.isFull] using hf
  rw [runTurns_call hr he]
  refine (runTurns_access hr he (.pushRd q b (s.ring q).wr) rest rfl (n + 2)).trans ?_
  rw [show access (.pushRd q b (s.ring q).wr) (s.setMain rest) =
      .next (s.setMain (.pushStore q b (s.ring q).wr :: rest)) from if_neg hf', andThen_next]
  refine (runTurns_access hr he (.pushStore q b (s.ring q).wr) rest rfl (n + 1)).trans ?_
  rw [show access (.pushStore q b (s.ring q).wr) (s.setMain rest) =
      andThen (writeSlot q (s.ring q).wr b (s.setMain rest)) fun t => .next (t.push [.pushWr q (s.ring q).wr]) from rfl,
    writeSlot_eq (s := s.setMain rest) b hw, andThen_next, andThen_next]
  refine (runTurns_access (s := s.setRing q { s.ring q with store := Memory.write (s.ring q).store (s.ring q).wr b })
    hr he (.pushWr q (s.ring q).wr) rest rfl n).trans ?_
  simp [access, atPushWr, State.setWr, State.capacity]

/-- `RB.PUSH` on a full buffer takes two accesses and changes nothing. -/
theorem runTurns_rbPush_full {q : Queue} (hf : s.isFull q = true) (b : Byte) (rest : List Micro) (n : Nat) :
    runTurns (n + 2) (s.setMain (.call (.rbPush q b) :: rest)) =
      runTurns n ((s.withRet (.bool false)).setMain rest) := by
  have hf' : nextIndex (s.capacity q) (s.ring q).wr = (s.ring q).rd := by simpa [State.isFull] using hf
  rw [runTurns_call hr he]
  refine (runTurns_access hr he (.pushRd q b (s.ring q).wr) rest rfl n).trans ?_
  rw [show access (.pushRd q b (s.ring q).wr) (s.setMain rest) =
      .next ((s.setMain rest).withRet (.bool false)) from if_pos hf', andThen_next]
  rfl

/-- `RB.POP` of a queued byte takes four accesses. -/
theorem runTurns_rbPop {q : Queue} {b : Byte} (hne : s.isEmpty q = false)
    (hb : readSlot q (s.ring q).rd s = .ok b) (rest : List Micro) (n : Nat) :
    runTurns (n + 4) (s.setMain (.call (.rbPop q) :: rest)) =
      runTurns n (((s.setRd q (nextIndex (s.capacity q) (s.ring q).rd)).withRet (.byte (some b))).setMain rest) := by
  have hne' : (s.ring q).rd ≠ (s.ring q).wr := by simpa [State.isEmpty] using hne
  have hb' : readSlot q (s.ring q).rd (s.setMain rest) = .ok b := hb
  rw [runTurns_call hr he]
  refine (runTurns_access hr he (.popWr q (s.ring q).rd) rest rfl (n + 2)).trans ?_
  rw [show access (.popWr q (s.ring q).rd) (s.setMain rest) =
      .next (s.setMain (.popStore q (s.ring q).rd :: rest)) from if_neg hne', andThen_next]
  refine (runTurns_access hr he (.popStore q (s.ring q).rd) rest rfl (n + 1)).trans ?_
  simp only [access, atPopStore, hb', andThen_next]
  exact runTurns_access hr he (.popRd q (s.ring q).rd b) rest rfl n

/-- `RB.POP` of an empty buffer takes two accesses and changes nothing. -/
theorem runTurns_rbPop_empty {q : Queue} (hem : s.isEmpty q = true) (rest : List Micro) (n : Nat) :
    runTurns (n + 2) (s.setMain (.call (.rbPop q) :: rest)) =
      runTurns n ((s.withRet (.byte none)).setMain rest) := by
  have hem' : (s.ring q).rd = (s.ring q).wr := by simpa [State.isEmpty] using hem
  rw [runTurns_call hr he]
  refine (runTurns_access hr he (.popWr q (s.ring q).rd) rest rfl n).trans ?_
  rw [show access (.popWr q (s.ring q).rd) (s.setMain rest) =
      .next ((s.setMain rest).withRet (.byte none)) from if_pos hem', andThen_next]
  rfl

/-- One transmit with `I = 1` and room takes ten accesses and leaves `afterEmit`. -/
theorem runTurns_emit {c : Channel} (hi : s.ie = true) (hf : s.isFull (.tx c) = false)
    (hw : (s.ring (.tx c)).wr < s.capacity (.tx c)) (b : Byte) (rest : List Micro) (n : Nat) :
    runTurns (n + 10) (s.setMain (emit c b :: rest)) = runTurns n ((afterEmit c b s).setMain rest) := by
  rw [show n + 10 = (n + 9) + 1 from rfl, runTurns_call hr he]
  rw [show callInstr (.chTx c b) (s.setMain rest) = .next (s.setMain (.txWait c b :: rest)) from if_pos hi, andThen_next]
  refine (runTurns_access hr he (.txWait c b) rest hf (n + 8)).trans ?_
  refine (runTurns_rbFull hr he (.tx c) (.txWaited c b :: rest) (n + 6)).trans ?_
  rw [hf]
  refine (runTurns_access (s := s.withRet (.bool false)) hr he (.txWaited c b) rest rfl (n + 5)).trans ?_
  rw [show access (.txWaited c b) ((s.withRet (.bool false)).setMain rest) =
      .next ((s.withRet (.bool false)).setMain (.call (.rbPush (.tx c) b) :: .txEnable c :: rest)) from by
    simp [access, atTxWaited], andThen_next]
  refine (runTurns_rbPush (s := s.withRet (.bool false)) hr he hf hw b (.txEnable c :: rest) (n + 1)).trans ?_
  exact runTurns_access (by exact hr) (by exact he) (.txEnable c) rest rfl n

end

/-- A whole line of bytes with `I = 1`: each takes ten accesses while there is room. -/
theorem runTurns_emitAll {c : Channel} (bs : List Byte) :
    ∀ {s : State}, s.run = .running → s.env = [] → s.ie = true →
      (∀ k < bs.length, (afterEmitAll c (bs.take k) s).isFull (.tx c) = false ∧
        ((afterEmitAll c (bs.take k) s).ring (.tx c)).wr < s.capacity (.tx c)) →
      ∀ (rest : List Micro) (n : Nat),
        runTurns (n + 10 * bs.length) (s.setMain (emitAll c bs ++ rest)) =
          runTurns n ((afterEmitAll c bs s).setMain rest) := by
  induction bs with
  | nil => intros; rfl
  | cons b bs ih =>
    intro s hr he hi hroom rest n
    have h0 := hroom 0 (by simp)
    simp only [List.take_zero, afterEmitAll, List.foldl_nil] at h0
    rw [show n + 10 * (b :: bs).length = (n + 10 * bs.length) + 10 by simp; omega]
    rw [show emitAll c (b :: bs) ++ rest = emit c b :: (emitAll c bs ++ rest) from rfl]
    rw [runTurns_emit hr he hi h0.1 h0.2]
    have := ih (s := afterEmit c b s) (by simpa using hr) (by simpa using he) (by simpa using hi)
      (fun k hk => by
        have := hroom (k + 1) (by simpa using hk)
        simpa [afterEmitAll, State.capacity] using this) rest n
    simpa [afterEmitAll] using this

end Sys2Proof.Machine
end

