-- ==== Sys2Proof/Laws/Invariant.lean ====
section
/-!
SUPPORT. The invariant of the state as a finite check, and what the invariant gives at once.
-/
namespace Sys2Proof.Machine

/-- The invariant of one channel's buffers, as a check. -/
def State.wfChannel (s : State) (c : Channel) : Bool :=
  decide (Ring.wf (s.cfg.nRx.get c) (s.rx.get c)) && decide (Ring.wf (s.cfg.nTx.get c) (s.tx.get c)) &&
    decide (LineBuf.wf s.cfg.lineCap (s.lf.get c))

/-- The invariant without quantifiers, so that a concrete state can be checked. -/
def State.wfCheck (s : State) : Bool :=
  decide s.cfg.wf && s.wfChannel .ch0 && s.wfChannel .ch1 && s.wfChannel .ch2 && s.wfChannel .ch3 &&
    s.mask.length == s.cfg.numPorts && s.last.length == s.cfg.numPorts && s.pinIn.length == s.cfg.numPorts && !s.isrActive

theorem State.wf_of_check {s : State} (h : s.wfCheck = true) : s.wf := by
  simp only [State.wfCheck, Bool.and_eq_true, decide_eq_true_eq, beq_iff_eq, Bool.not_eq_true'] at h
  obtain ⟨⟨⟨⟨⟨⟨⟨⟨hc, h0⟩, h1⟩, h2⟩, h3⟩, hm⟩, hl⟩, hp⟩, hi⟩ := h
  have hch : ∀ c, s.wfChannel c = true := fun c => by cases c <;> assumption
  simp only [State.wfChannel, Bool.and_eq_true, decide_eq_true_eq] at hch
  refine ⟨hc, fun ⟨c, d⟩ => ?_, fun c => (hch c).2, hm, hl, hp, hi⟩
  cases d
  · exact (hch c).1.1
  · exact (hch c).1.2

/-- A reduced `rd` index. -/
theorem State.wf.rd_lt {s : State} (h : s.wf) (q : Queue) : (s.ring q).rd < s.capacity q := (h.rings q).1

/-- A reduced `wr` index. -/
theorem State.wf.wr_lt {s : State} (h : s.wf) (q : Queue) : (s.ring q).wr < s.capacity q := (h.rings q).2.1

/-- The capacity is positive. -/
theorem State.wf.capacity_pos {s : State} (h : s.wf) (q : Queue) : 0 < s.capacity q := by
  have := h.capacity_ge q
  omega

/-- The fill count of reduced indices is below the capacity (10_state R22). -/
theorem State.wf.count_lt {s : State} (h : s.wf) (q : Queue) : s.count q < s.capacity q := by
  have hr := h.rd_lt q
  have hw := h.wr_lt q
  unfold State.count
  rw [ringCount_eq hr hw]
  split <;> omega

/-- The buffer is empty exactly when its fill count is 0. -/
theorem State.wf.isEmpty_iff {s : State} (h : s.wf) (q : Queue) : s.isEmpty q = true ↔ s.count q = 0 := by
  have hr := h.rd_lt q
  have hw := h.wr_lt q
  unfold State.count State.isEmpty
  rw [ringCount_eq hr hw, beq_iff_eq]
  split <;> omega

/-- The buffer is full exactly when its fill count is `N - 1`. -/
theorem State.wf.isFull_iff {s : State} (h : s.wf) (q : Queue) : s.isFull q = true ↔ s.count q = s.capacity q - 1 := by
  have hr := h.rd_lt q
  have hw := h.wr_lt q
  unfold State.count State.isFull
  rw [ringCount_eq hr hw, beq_iff_eq, nextIndex_eq hw]
  split <;> split <;> omega

/-- The state after a handler's turn, or between two operations, keeps every ring within its capacity if the new ring is. -/
theorem State.wf.setRing {s : State} (h : s.wf) (q : Queue) {r : Ring} (hr : Ring.wf (s.capacity q) r) :
    (s.setRing q r).wf := by
  refine ⟨h.cfg, fun p => ?_, h.lines, h.mask, h.last, h.pins, h.isr⟩
  by_cases hp : p = q
  · subst hp
    rw [State.ring_setRing]
    exact hr
  · rw [State.ring_setRing_ne s r hp]
    exact h.rings p

end Sys2Proof.Machine
end

