-- ==== Sys2Proof/Laws/PerInstr.lean ====
section
/-!
SUPPORT. Statements made per instruction. `FirstByte`: the first byte of the encoding of an instruction is the code its row of
spec/opcode_table.json gives it (30_encoding R91, R97 to R99); the row of `CMD.UNK` gives none, the byte is the operand.
-/
namespace Sys2Proof.Laws.FirstByte

/-- The first byte of a request. -/
def firstByte : Request → Option Byte
  | .op bytes => bytes.head?
  | .line bytes => bytes.head?

/-- The code of an instruction in the opcode table. -/
def tableCode : Instr → Byte
  | .rbPush _ _ => 0x00#8
  | .rbPop _ => 0x01#8
  | .rbEmpty _ => 0x02#8
  | .rbFull _ => 0x03#8
  | .rbPushd _ _ => 0x04#8
  | .chRxi _ _ => 0x10#8
  | .chTxi _ => 0x11#8
  | .chTx _ _ => 0x12#8
  | .chDrain _ => 0x13#8
  | .lfAppend _ => 0x20#8
  | .lfReset _ => 0x21#8
  | .pmPoll => 0x30#8
  | .pmWatch _ _ => 0x31#8
  | .pmUnwatch _ _ => 0x32#8
  | .clkTick => 0x38#8
  | .cdDispatch => 0x40#8
  | .schA => 0x48#8
  | .schB _ => 0x49#8
  | .schC => 0x4A#8
  | .sysStart => 0x50#8
  | .sysFatal _ => 0x51#8
  | .sysCritEnter => 0x52#8
  | .sysCritExit _ => 0x53#8
  | .envRxbyte _ _ => 0x58#8
  | .envTxrdy _ => 0x59#8
  | .envReset => 0x5A#8
  | .cmdZ => 0x5A#8
  | .cmdFwd1 _ => 0x31#8
  | .cmdFwd2 _ => 0x32#8
  | .cmdFwd3 _ => 0x33#8
  | .cmdH _ => 0x48#8
  | .cmdL _ => 0x4C#8
  | .cmdU _ => 0x55#8
  | .cmdD _ => 0x44#8
  | .cmdI _ => 0x49#8
  | .cmdA _ => 0x41#8
  | .cmdM _ => 0x4D#8
  | .cmdN _ => 0x4E#8
  | .cmdUnk op _ => op

/-- The first byte of the encoding is the table's code. -/
def Statement (i : Instr) : Prop := firstByte (encode i) = some (tableCode i)

theorem rbPush (q : Queue) (b : Byte) : Statement (.rbPush q b) := rfl
theorem rbPop (q : Queue) : Statement (.rbPop q) := rfl
theorem rbEmpty (q : Queue) : Statement (.rbEmpty q) := rfl
theorem rbFull (q : Queue) : Statement (.rbFull q) := rfl
theorem rbPushd (q : Queue) (b : Byte) : Statement (.rbPushd q b) := rfl
theorem chRxi (c : Channel) (b : Byte) : Statement (.chRxi c b) := rfl
theorem chTxi (c : Channel) : Statement (.chTxi c) := rfl
theorem chTx (c : Channel) (b : Byte) : Statement (.chTx c b) := rfl
theorem chDrain (c : Channel) : Statement (.chDrain c) := rfl
theorem lfAppend (c : Channel) : Statement (.lfAppend c) := rfl
theorem lfReset (c : Channel) : Statement (.lfReset c) := rfl
theorem pmPoll : Statement (.pmPoll) := rfl
theorem pmWatch (p : Nat) (i : Pin) : Statement (.pmWatch p i) := rfl
theorem pmUnwatch (p : Nat) (i : Pin) : Statement (.pmUnwatch p i) := rfl
theorem clkTick : Statement (.clkTick) := rfl
theorem cdDispatch : Statement (.cdDispatch) := rfl
theorem schA : Statement (.schA) := rfl
theorem schB (k : Channel) : Statement (.schB k) := rfl
theorem schC : Statement (.schC) := rfl
theorem sysStart : Statement (.sysStart) := rfl
theorem sysFatal (kind : FatalKind) : Statement (.sysFatal kind) := rfl
theorem sysCritEnter : Statement (.sysCritEnter) := rfl
theorem sysCritExit (saved : Bool) : Statement (.sysCritExit saved) := rfl
theorem envRxbyte (c : Channel) (b : Byte) : Statement (.envRxbyte c b) := rfl
theorem envTxrdy (c : Channel) : Statement (.envTxrdy c) := rfl
theorem envReset : Statement (.envReset) := rfl
theorem cmdZ : Statement (.cmdZ) := rfl
theorem cmdFwd1 (payload : List Byte) : Statement (.cmdFwd1 payload) := rfl
theorem cmdFwd2 (payload : List Byte) : Statement (.cmdFwd2 payload) := rfl
theorem cmdFwd3 (payload : List Byte) : Statement (.cmdFwd3 payload) := rfl
theorem cmdH (args : List Byte) : Statement (.cmdH args) := rfl
theorem cmdL (args : List Byte) : Statement (.cmdL args) := rfl
theorem cmdU (args : List Byte) : Statement (.cmdU args) := rfl
theorem cmdD (args : List Byte) : Statement (.cmdD args) := rfl
theorem cmdI (args : List Byte) : Statement (.cmdI args) := rfl
theorem cmdA (args : List Byte) : Statement (.cmdA args) := rfl
theorem cmdM (args : List Byte) : Statement (.cmdM args) := rfl
theorem cmdN (args : List Byte) : Statement (.cmdN args) := rfl
theorem cmdUnk (op : Byte) (args : List Byte) : Statement (.cmdUnk op args) := rfl

end Sys2Proof.Laws.FirstByte
end

