-- ==== Sys2Proof/Laws/Queue.lean ====
section
/-!
SUPPORT. The queue a ring buffer stands for: what a push, a pop and a drop-oldest push do to the list of queued bytes
(10_state R22).
-/
namespace Sys2Proof.Machine

/-! ### Index arithmetic of the queue -/

/-- The slot behind the last queued byte is `wr`. -/
theorem slot_count {n rd wr : Nat} (hr : rd < n) (hw : wr < n) : (rd + ringCount n rd wr) % n = wr := by
  rw [ringCount_eq hr hw]
  split
  · rw [show rd + (wr - rd) = wr by omega, Nat.mod_eq_of_lt hw]
  · rw [show rd + (wr + n - rd) = wr + n by omega, Nat.add_mod_right, Nat.mod_eq_of_lt hw]

/-- A queued slot is not the slot at `wr`. -/
theorem slot_ne {n rd wr k : Nat} (hr : rd < n) (hw : wr < n) (hk : k < ringCount n rd wr) : (rd + k) % n ≠ wr := by
  rw [ringCount_eq hr hw] at hk
  split at hk
  · rw [Nat.mod_eq_of_lt (by omega)]
    omega
  · by_cases h : rd + k < n
    · rw [Nat.mod_eq_of_lt h]
      omega
    · rw [Nat.mod_eq_sub_mod (by omega), Nat.mod_eq_of_lt (by omega)]
      omega

/-- A push of a buffer that is not full adds one to the fill count. -/
theorem ringCount_push {n rd wr : Nat} (hr : rd < n) (hw : wr < n) (hf : nextIndex n wr ≠ rd) :
    ringCount n rd (nextIndex n wr) = ringCount n rd wr + 1 := by
  have hn := nextIndex_lt wr (by omega : 0 < n)
  rw [ringCount_eq hr hw, ringCount_eq hr hn]
  rw [nextIndex_eq hw] at hf ⊢
  split at hf <;> rename_i h <;> simp only [h, if_true, if_false] at hf ⊢ <;> repeat' split
  all_goals omega

/-- A pop of a buffer that is not empty takes one from the fill count. -/
theorem ringCount_pop {n rd wr : Nat} (hr : rd < n) (hw : wr < n) (hne : rd ≠ wr) :
    ringCount n (nextIndex n rd) wr + 1 = ringCount n rd wr := by
  have hn := nextIndex_lt rd (by omega : 0 < n)
  rw [ringCount_eq hr hw, ringCount_eq hn hw]
  rw [nextIndex_eq hr]
  by_cases h : rd + 1 = n
  · simp only [h, if_true]
    repeat' split
    all_goals omega
  · simp only [h, if_false]
    repeat' split
    all_goals omega

/-! ### The queue of a ring -/

/-- The queued bytes of a ring of capacity `n`. -/
def Ring.queue (n : Nat) (r : Ring) : List (Option Byte) :=
  (List.range (ringCount n r.rd r.wr)).map fun k => Memory.read r.store ((r.rd + k) % n)

theorem State.queued_eq (s : State) (q : Queue) : s.queued q = (s.ring q).queue (s.capacity q) := rfl

/-- A byte stored at `wr`, and `wr` advanced, is the last one of the queue. -/
theorem Ring.queue_push {n : Nat} {r : Ring} (hr : r.rd < n) (hw : r.wr < n) (hf : nextIndex n r.wr ≠ r.rd) (b : Byte) :
    Ring.queue n { store := Memory.write r.store r.wr b, rd := r.rd, wr := nextIndex n r.wr } =
      Ring.queue n r ++ [some b] := by
  simp only [Ring.queue, ringCount_push hr hw hf, List.range_succ, List.map_append, List.map_cons, List.map_nil,
    slot_count hr hw, Memory.read_write_same]
  congr 1
  apply List.map_congr_left
  intro k hk
  exact Memory.read_write_ne _ _ (slot_ne hr hw (List.mem_range.mp hk))

/-- The queue of a ring that is not empty is the byte at `rd` and then the queue with `rd` advanced. -/
theorem Ring.queue_pop {n : Nat} {r : Ring} (hr : r.rd < n) (hw : r.wr < n) (hne : r.rd ≠ r.wr) :
    Ring.queue n r = Memory.read r.store r.rd :: Ring.queue n { store := r.store, rd := nextIndex n r.rd, wr := r.wr } := by
  have hc := ringCount_pop hr hw hne
  simp only [Ring.queue, ← hc, List.range_succ_eq_map, List.map_cons, List.map_map, Nat.add_zero, Nat.mod_eq_of_lt hr]
  congr 1
  apply List.map_congr_left
  intro k _
  simp only [Function.comp, nextIndex, Nat.mod_add_mod]
  congr 2
  omega

/-- An empty ring has the empty queue. -/
theorem Ring.queue_empty {n : Nat} {r : Ring} (h : r.rd = r.wr) : Ring.queue n r = [] := by
  simp [Ring.queue, ringCount, h]

/-- Two bytes never share a slot: the queue is shorter than the capacity. -/
theorem Ring.queue_length {n : Nat} (r : Ring) : (Ring.queue n r).length = ringCount n r.rd r.wr := by
  simp [Ring.queue]

/-- Capacities are no part of a ring: the queue of one buffer is not touched by an update of another. -/
theorem State.queued_setRing_ne (s : State) {p q : Queue} (r : Ring) (h : p ≠ q) : (s.setRing q r).queued p = s.queued p := by
  simp only [State.queued_eq, State.ring_setRing_ne s r h]
  rfl

theorem State.queued_setRing (s : State) (q : Queue) (r : Ring) : (s.setRing q r).queued q = r.queue (s.capacity q) := by
  simp only [State.queued_eq, State.ring_setRing]
  rfl

/-- A pop of a queue known to be `x :: bs` reads `x`. -/
theorem State.holds.read {s : State} {q : Queue} {x : Byte} {bs : List Byte} (hs : s.wf) (h : s.holds q (x :: bs)) :
    (s.ring q).rd ≠ (s.ring q).wr ∧ Memory.read (s.ring q).store (s.ring q).rd = some x ∧
      Ring.queue (s.capacity q) { store := (s.ring q).store, rd := nextIndex (s.capacity q) (s.ring q).rd, wr := (s.ring q).wr } =
        bs.map some := by
  have hne : (s.ring q).rd ≠ (s.ring q).wr := by
    intro he
    have := h
    rw [State.holds, State.queued_eq, Ring.queue_empty he] at this
    cases this
  have := h
  rw [State.holds, State.queued_eq, Ring.queue_pop (hs.rd_lt q) (hs.wr_lt q) hne] at this
  simp only [List.map_cons, List.cons.injEq] at this
  exact ⟨hne, this.1, this.2⟩

/-! ### What a transmit leaves -/

/-- With room, a transmit's byte is the last one queued. -/
theorem afterEmit_holds {s : State} {c : Channel} {bs : List Byte} (hs : s.wf) (h : s.holds (.tx c) bs)
    (hf : s.isFull (.tx c) = false) (b : Byte) : (afterEmit c b s).holds (.tx c) (bs ++ [b]) := by
  have hne : nextIndex (s.capacity (.tx c)) (s.ring (.tx c)).wr ≠ (s.ring (.tx c)).rd := by simpa [State.isFull] using hf
  have := State.queued_setRing s (.tx c)
    { store := Memory.write (s.ring (.tx c)).store (s.ring (.tx c)).wr b, rd := (s.ring (.tx c)).rd,
      wr := nextIndex (s.capacity (.tx c)) (s.ring (.tx c)).wr }
  rw [Ring.queue_push (hs.rd_lt _) (hs.wr_lt _) hne, ← State.queued_eq, show s.queued (.tx c) = bs.map some from h] at this
  rw [State.holds, List.map_append]
  exact this

/-- A transmit keeps the invariant. -/
theorem State.wf.afterEmit {s : State} (hs : s.wf) (c : Channel) (b : Byte) : (afterEmit c b s).wf := by
  have hr := hs.rings (.tx c)
  have hset := hs.setRing (.tx c) (r :=
    { store := Memory.write (s.ring (.tx c)).store (s.ring (.tx c)).wr b, rd := (s.ring (.tx c)).rd,
      wr := nextIndex (s.capacity (.tx c)) (s.ring (.tx c)).wr })
    ⟨hr.1, nextIndex_lt _ (hs.capacity_pos _), Memory.wf_write _ _ hr.2.2.1, Memory.bound_write _ hr.2.1 hr.2.2.2⟩
  exact ⟨hset.cfg, hset.rings, hset.lines, hset.mask, hset.last, hset.pins, hset.isr⟩

end Sys2Proof.Machine
end

