-- ==== Sys2Proof/Tests/Slice0.lean ====
section
/-!
SUPPORT. The tests: what WellFormed refuses, a word of every constructor written from the spec's encoding, vectors of
95_test_vectors (the number of the vector, or the rule whose example it is, stands in the docstring), and for every statement
with hypotheses a state and operands that meet them.
-/
namespace Sys2Proof.Tests
set_option Elab.async false
open Sys2Proof Sys2Proof.Machine

/-! ### Helpers -/

/-- The outcome is a next state that meets `p`. -/
def answers (r : Res) (p : State → Bool) : Bool :=
  match r with
  | .next t => p t
  | _ => false

theorem next_of_answers {r : Res} {p : State → Bool} (h : answers r p = true) : ∃ t, r = .next t ∧ p t = true := by
  cases r with
  | next t => exact ⟨t, rfl, h⟩
  | fault e => cases h
  | refused e => cases h

/-- A next state exists. -/
theorem next_exists {r : Res} (h : answers r (fun _ => true) = true) : ∃ t, r = .next t :=
  (next_of_answers h).imp fun _ h => h.1

/-- A ring of capacity `n` whose queue, from index `rd` on, is `bs`. -/
def ringOf (n rd : Nat) (bs : List Byte) : Ring where
  store := ((List.range bs.length).map fun k => ((rd + k) % n, bs.getD k 0#8)).foldl (fun m e => Memory.write m e.1 e.2) []
  rd := rd
  wr := (rd + bs.length) % n

/-- A line buffer holding `bs`. -/
def lineBufOf (bs : List Byte) (ready : Bool) : LineBuf where
  line := (List.range bs.length).map fun k => (k, bs.getD k 0#8)
  len := bs.length
  ready := ready

/-- T0 with capacities `nr`, `nt`. -/
def cfgOf (nr nt : Nat) : Config := { Config.t0 with nRx := .all nr, nTx := .all nt }

/-- A running machine between operations: `I = 1`, transmitters ready, everything empty. -/
def st (nr nt : Nat) : State :=
  { State.initial (cfgOf nr nt) (.all true) (List.replicate 5 0#8) with ie := true, startPending := false }

/-- The machine `st 8 16`. -/
def base : State := st 8 16

/-- The machine `st 4 4`. -/
def four : State := st 4 4

/-- Interrupts disabled. -/
def masked (s : State) : State := { s with ie := false }

/-- The bytes queued in `q`. -/
def content (s : State) (q : Queue) : List (Option Byte) := s.queued q

/-! ### What WellFormed refuses -/

theorem test_wf_pushd_transmit : ¬ (Instr.rbPushd (.tx .ch0) 0x41#8).wf := by decide
theorem test_wf_watch_port : ¬ (Instr.pmWatch 256 0).wf := by decide
theorem test_wf_unwatch_port : ¬ (Instr.pmUnwatch 256 0).wf := by decide
theorem test_wf_schB_control : ¬ (Instr.schB .ch0).wf := by decide
theorem test_wf_fwd1_cr : ¬ (Instr.cmdFwd1 [0x41#8, 0x0D#8]).wf := by decide
theorem test_wf_fwd2_lf : ¬ (Instr.cmdFwd2 [0x0A#8]).wf := by decide
theorem test_wf_fwd3_cr : ¬ (Instr.cmdFwd3 [0x0D#8]).wf := by decide
theorem test_wf_g3_terminator :
    ∀ mk ∈ [Instr.cmdH, .cmdL, .cmdU, .cmdD, .cmdI, .cmdA, .cmdM, .cmdN], ¬ (mk [0x41#8, 0x33#8, 0x0A#8]).wf := by
  simp [Instr.wf, lineBytes, lineByte]
theorem test_wf_unk_defined : ¬ (Instr.cmdUnk 0x48#8 [0x41#8, 0x33#8]).wf := by decide
theorem test_wf_unk_digit : ¬ (Instr.cmdUnk 0x31#8 [0x41#8]).wf := by decide
theorem test_wf_unk_nul : ¬ (Instr.cmdUnk 0x00#8 [0x41#8]).wf := by decide
theorem test_wf_unk_first_terminator : ¬ (Instr.cmdUnk 0x0D#8 [0x41#8]).wf := by decide
theorem test_wf_unk_terminator : ¬ (Instr.cmdUnk 0x58#8 [0x0D#8]).wf := by decide
theorem test_wf_unk_z : ¬ (Instr.cmdUnk 0x5A#8 []).wf := by decide
theorem test_fits_line : ¬ (Instr.cmdH (List.replicate 7 0x41#8)).fits Config.t0 := by decide
theorem test_fits_watch : ¬ (Instr.pmWatch 5 0).fits Config.t0 := by decide
theorem test_fits_unwatch : ¬ (Instr.pmUnwatch 5 0).fits Config.t0 := by decide
theorem test_cfg_t0 : Config.t0.wf := by decide +kernel
theorem test_cfg_capacity : ¬ (cfgOf 1 4).wf := by decide +kernel
theorem test_cfg_index_width : ¬ (cfgOf 4 257).wf := by decide +kernel
theorem test_cfg_line : ¬ ({ Config.t0 with lineCap := 3 } : Config).wf := by decide +kernel
theorem test_cfg_ports : ¬ ({ Config.t0 with ports := [0x46#8, 0x4B#8, 0x41#8, 0x41#8, 0x42#8] } : Config).wf := by
  decide +kernel
theorem test_cfg_analog_two : ¬ ({ Config.t0 with analogPorts := [0x46#8] } : Config).wf := by decide +kernel
theorem test_cfg_analog_distinct : ¬ ({ Config.t0 with analogPorts := [0x46#8, 0x46#8] } : Config).wf := by decide +kernel
theorem test_cfg_analog_port : ¬ ({ Config.t0 with analogPorts := [0x46#8, 0x47#8] } : Config).wf := by decide +kernel
theorem test_cfg_last0 : ¬ ({ Config.t0 with last0 := [] } : Config).wf := by decide +kernel
theorem test_cfg_message :
    ¬ ({ Config.t0 with fatalMsg := { Config.t0.fatalMsg with pinRange := [0x0D#8] } } : Config).wf := by decide +kernel

/-! ### Decoding, a word of every constructor (30_encoding R90, R91, R95 to R99; operand bytes log 2) -/

theorem test_decode_rbPush : decode (.op [0x00#8, 0x03#8, 0x41#8]) = .ok (.rbPush (.tx .ch1) 0x41#8) := rfl
theorem test_decode_rbPop : decode (.op [0x01#8, 0x04#8]) = .ok (.rbPop (.rx .ch2)) := rfl
theorem test_decode_rbEmpty : decode (.op [0x02#8, 0x07#8]) = .ok (.rbEmpty (.tx .ch3)) := rfl
theorem test_decode_rbFull : decode (.op [0x03#8, 0x00#8]) = .ok (.rbFull (.rx .ch0)) := rfl
theorem test_decode_rbPushd : decode (.op [0x04#8, 0x06#8, 0xFF#8]) = .ok (.rbPushd (.rx .ch3) 0xFF#8) := rfl
theorem test_decode_chRxi : decode (.op [0x10#8, 0x02#8, 0x0D#8]) = .ok (.chRxi .ch2 0x0D#8) := rfl
theorem test_decode_chTxi : decode (.op [0x11#8, 0x03#8]) = .ok (.chTxi .ch3) := rfl
theorem test_decode_chTx : decode (.op [0x12#8, 0x01#8, 0x3E#8]) = .ok (.chTx .ch1 0x3E#8) := rfl
theorem test_decode_chDrain : decode (.op [0x13#8, 0x02#8]) = .ok (.chDrain .ch2) := rfl
theorem test_decode_lfAppend : decode (.op [0x20#8, 0x01#8]) = .ok (.lfAppend .ch1) := rfl
theorem test_decode_lfReset : decode (.op [0x21#8, 0x03#8]) = .ok (.lfReset .ch3) := rfl
theorem test_decode_pmPoll : decode (.op [0x30#8]) = .ok .pmPoll := rfl
theorem test_decode_pmWatch : decode (.op [0x31#8, 0x02#8, 0x07#8]) = .ok (.pmWatch 2 7) := rfl
theorem test_decode_pmUnwatch : decode (.op [0x32#8, 0x04#8, 0x01#8]) = .ok (.pmUnwatch 4 1) := rfl
theorem test_decode_clkTick : decode (.op [0x38#8]) = .ok .clkTick := rfl
theorem test_decode_cdDispatch : decode (.op [0x40#8]) = .ok .cdDispatch := rfl
theorem test_decode_schA : decode (.op [0x48#8]) = .ok .schA := rfl
theorem test_decode_schB : decode (.op [0x49#8, 0x03#8]) = .ok (.schB .ch3) := rfl
theorem test_decode_schC : decode (.op [0x4A#8]) = .ok .schC := rfl
theorem test_decode_sysStart : decode (.op [0x50#8]) = .ok .sysStart := rfl
theorem test_decode_sysFatal : decode (.op [0x51#8, 0x04#8]) = .ok (.sysFatal .badAnalogPort) := rfl
theorem test_decode_sysCritEnter : decode (.op [0x52#8]) = .ok .sysCritEnter := rfl
theorem test_decode_sysCritExit : decode (.op [0x53#8, 0x01#8]) = .ok (.sysCritExit true) := rfl
theorem test_decode_envRxbyte : decode (.op [0x58#8, 0x00#8, 0x41#8]) = .ok (.envRxbyte .ch0 0x41#8) := rfl
theorem test_decode_envTxrdy : decode (.op [0x59#8, 0x01#8]) = .ok (.envTxrdy .ch1) := rfl
theorem test_decode_envReset : decode (.op [0x5A#8]) = .ok .envReset := rfl
theorem test_decode_cmdZ : decode (.line [0x5A#8]) = .ok .cmdZ := rfl
theorem test_decode_cmdFwd1 : decode (.line [0x31#8, 0x48#8]) = .ok (.cmdFwd1 [0x48#8]) := rfl
theorem test_decode_cmdFwd2 : decode (.line [0x32#8]) = .ok (.cmdFwd2 []) := rfl
theorem test_decode_cmdFwd3 : decode (.line [0x33#8, 0x5A#8]) = .ok (.cmdFwd3 [0x5A#8]) := rfl
theorem test_decode_cmdH : decode (.line [0x48#8, 0x41#8, 0x33#8, 0x58#8, 0x59#8]) =
    .ok (.cmdH [0x41#8, 0x33#8, 0x58#8, 0x59#8]) := rfl
theorem test_decode_cmdL : decode (.line [0x4C#8, 0x42#8, 0x30#8]) = .ok (.cmdL [0x42#8, 0x30#8]) := rfl
theorem test_decode_cmdU : decode (.line [0x55#8, 0x43#8, 0x37#8]) = .ok (.cmdU [0x43#8, 0x37#8]) := rfl
theorem test_decode_cmdD : decode (.line [0x44#8, 0x43#8, 0x37#8]) = .ok (.cmdD [0x43#8, 0x37#8]) := rfl
theorem test_decode_cmdI : decode (.line [0x49#8, 0x42#8, 0x35#8]) = .ok (.cmdI [0x42#8, 0x35#8]) := rfl
theorem test_decode_cmdA : decode (.line [0x41#8, 0x46#8, 0x30#8]) = .ok (.cmdA [0x46#8, 0x30#8]) := rfl
theorem test_decode_cmdM : decode (.line [0x4D#8, 0x43#8, 0x32#8]) = .ok (.cmdM [0x43#8, 0x32#8]) := rfl
theorem test_decode_cmdN : decode (.line [0x4E#8, 0x43#8, 0x32#8]) = .ok (.cmdN [0x43#8, 0x32#8]) := rfl
theorem test_decode_cmdUnk : decode (.line [0x5A#8, 0x41#8, 0x33#8]) = .ok (.cmdUnk 0x5A#8 [0x41#8, 0x33#8]) := rfl

/-- 93 U6: a code outside the table. -/
theorem test_decode_unknown : decode (.op [0x05#8]) = .error (.unknownCode 0x05#8) := rfl
/-- 93 U7: `k = 0` for `SCH.B`. -/
theorem test_decode_schB_control : decode (.op [0x49#8, 0x00#8]) = .error (.auxRange 0x00#8) := rfl
/-- 93 U7: `i > 7`. -/
theorem test_decode_pin : decode (.op [0x31#8, 0x00#8, 0x08#8]) = .error (.pinRange 0x08#8) := rfl
/-- 93 U7: `c > 3`. -/
theorem test_decode_channel : decode (.op [0x11#8, 0x04#8]) = .error (.channelRange 0x04#8) := rfl
/-- Log 3: a table word that is an operation, and one that is a line. -/
theorem test_table_words :
    decodeTableWord 8 0x12 = some (.chTx .ch0 0#8) ∧ decodeTableWord 8 0x4C = some (.cmdL [0#8, 0#8]) ∧
      decodeTableWord 8 0x49 = some (.cmdI [0#8, 0#8]) := by decide

/-! ### Vectors -/

/-- RB-6: `wr` wraps 3 to 0. -/
theorem test_push_wraps : answers (exec (.rbPush (.tx .ch0) 0x44#8)
      { four with tx := four.tx.set .ch0 (ringOf 4 1 [0x42#8, 0x43#8]) }) (fun t =>
    t.ret == .bool true && t.tx.c0.rd == 1 && t.tx.c0.wr == 0 && Memory.read t.tx.c0.store 3 == some 0x44#8) = true := by
  decide +kernel
/-- RB-4: full, nothing written. -/
theorem test_push_full : answers (exec (.rbPush (.rx .ch1) 0x44#8)
      { four with rx := four.rx.set .ch1 (ringOf 4 0 [0x41#8, 0x42#8, 0x43#8]) }) (fun t =>
    t.ret == .bool false && t.rx.c1 == ringOf 4 0 [0x41#8, 0x42#8, 0x43#8]) = true := by decide +kernel
/-- R135's example: `rd` wraps 3 to 0. -/
theorem test_pop_wraps : answers (exec (.rbPop (.rx .ch0))
      { four with rx := four.rx.set .ch0 (ringOf 4 3 [0x44#8, 0x45#8]) }) (fun t =>
    t.ret == .byte (some 0x44#8) && t.rx.c0.rd == 0 && t.rx.c0.wr == 1) = true := by decide +kernel
/-- RB-15: two drops inside a pop. -/
theorem test_pop_two_drops : answers (exec (.rbPop (.rx .ch0))
      { four with rx := four.rx.set .ch0 (ringOf 4 0 [0x41#8, 0x42#8, 0x43#8])
                  env := [.main, .main, .rxByte .ch0 0x44#8, .rxByte .ch0 0x45#8] }) (fun t =>
    t.ret == .byte (some 0x45#8) && t.rx.c0 == { store := [(0, 0x45#8), (1, 0x42#8), (2, 0x43#8), (3, 0x44#8)], rd := 1, wr := 1 }) =
    true := by decide +kernel
/-- R132's example. -/
theorem test_empty : answers (exec (.rbEmpty (.rx .ch0)) { four with rx := .all (ringOf 4 2 []) })
    (fun t => t.ret == .bool true) = true := by decide +kernel
/-- R133's example. -/
theorem test_full : answers (exec (.rbFull (.tx .ch2)) { four with tx := .all (ringOf 4 1 [0x41#8, 0x42#8, 0x43#8]) })
    (fun t => t.ret == .bool true && t.tx.c2.wr == 0) = true := by decide +kernel
/-- RB-7: drop-oldest. -/
theorem test_pushd_drops : answers (exec (.rbPushd (.rx .ch0) 0x45#8)
      { four with rx := four.rx.set .ch0 { store := [(0, 0x41#8), (1, 0x42#8), (2, 0x43#8), (3, 0x44#8)], rd := 1, wr := 0 } })
    (fun t => t.rx.c0 == { store := [(0, 0x45#8), (1, 0x42#8), (2, 0x43#8), (3, 0x44#8)], rd := 2, wr := 1 }) = true := by
  decide +kernel
/-- RB-9: not full, as a push. -/
theorem test_pushd_room : answers (exec (.rbPushd (.rx .ch0) 0x46#8) { four with rx := four.rx.set .ch0 (ringOf 4 1 []) })
    (fun t => t.rx.c0 == { store := [(1, 0x46#8)], rd := 1, wr := 2 }) = true := by decide +kernel
/-- CH-2. -/
theorem test_rxi_overrun : answers (exec (.chRxi .ch0 0x0D#8)
      { four with rx := four.rx.set .ch0 (ringOf 4 0 [0x41#8, 0x42#8, 0x43#8]) })
    (fun t => t.rx.c0.rd == 1 && t.rx.c0.wr == 0 && Memory.read t.rx.c0.store 3 == some 0x0D#8) = true := by decide +kernel
/-- CH-4, first interrupt. -/
theorem test_txi_sends : answers (exec (.chTxi .ch0)
      { four with tx := four.tx.set .ch0 (ringOf 4 1 [0x3E#8, 0x48#8]), txIrqEn := .all true })
    (fun t => t.wireOut.c0 == [0x3E#8] && t.tx.c0.rd == 2 && !t.txReady.c0 && t.txIrqEn.c0) = true := by decide +kernel
/-- CH-4, third interrupt: the buffer is empty. -/
theorem test_txi_disables : answers (exec (.chTxi .ch0) { four with tx := four.tx.set .ch0 (ringOf 4 3 []), txIrqEn := .all true })
    (fun t => t.wireOut.c0 == [] && t.txReady.c0 && !t.txIrqEn.c0 && t.txIrqEn.c1) = true := by decide +kernel
/-- CH-3. -/
theorem test_tx_queues : answers (exec (.chTx .ch0 0x3E#8) { four with tx := four.tx.set .ch0 (ringOf 4 1 []) })
    (fun t => t.tx.c0 == { store := [(1, 0x3E#8)], rd := 1, wr := 2 } && t.txIrqEn.c0 && t.wireOut.c0 == []) = true := by
  decide +kernel
/-- CH-7: `I = 0`, full. -/
theorem test_tx_synchronous : answers (exec (.chTx .ch0 0x44#8)
      { masked four with tx := four.tx.set .ch0 (ringOf 4 0 [0x41#8, 0x42#8, 0x43#8]), env := readySchedule .ch0 100 })
    (fun t => t.wireOut.c0 == [0x41#8, 0x42#8, 0x43#8, 0x44#8] && t.tx.c0.rd == 0 && t.tx.c0.wr == 0 && !t.txIrqEn.c0 &&
      !t.ie && t.main == []) = true := by decide +kernel
/-- R155's example, at the wait for the second byte. -/
theorem test_drain_waits : answers (exec (.chDrain .ch0) { masked four with tx := four.tx.set .ch0 (ringOf 4 0 [0x41#8, 0x42#8]) })
    (fun t => t.wireOut.c0 == [0x41#8] && t.tx.c0.rd == 1 && t.waiting) = true := by decide +kernel
/-- CH-8. -/
theorem test_drain_empty : answers (exec (.chDrain .ch0) (masked four))
    (fun t => t == { masked four with ret := .bool true }) = true := by decide +kernel
/-- LF-1. -/
theorem test_append_line : answers (exec (.lfAppend .ch2)
      { base with rx := .all (ringOf 8 3 [0x00#8, 0x0D#8, 0x0A#8, 0x48#8, 0x41#8, 0x33#8, 0x0D#8]) })
    (fun t => t.lf.c2 == lineBufOf [0x48#8, 0x41#8, 0x33#8] true && t.isEmpty (.rx .ch2) && !t.isEmpty (.rx .ch0)) = true := by
  decide +kernel
/-- LF-2, the second append: a partial line is continued, the byte behind the terminator stays. -/
theorem test_append_continues : answers (exec (.lfAppend .ch2)
      { base with rx := .all (ringOf 8 6 [0x33#8, 0x0D#8, 0x0A#8]), lf := .all (lineBufOf [0x48#8, 0x41#8] false) })
    (fun t => t.lf.c2 == lineBufOf [0x48#8, 0x41#8, 0x33#8] true && content t (.rx .ch2) == [some 0x0A#8] && t.lf.c0.len == 2) =
    true := by decide +kernel
/-- LF-9, under `L = 4`: the fourth byte is fatal and the terminator is never popped. -/
theorem test_append_too_long : answers (exec (.lfAppend .ch1)
      { base with cfg := { base.cfg with lineCap := 4 }, rx := .all (ringOf 8 0 [0x41#8, 0x42#8, 0x43#8, 0x44#8, 0x0D#8])
                  env := readySchedule .ch0 500 })
    (fun t => t.lf.c1 == lineBufOf [0x41#8, 0x42#8, 0x43#8, 0x44#8] false && t.run == .halted .lineTooLong &&
      content t (.rx .ch1) == [some 0x0D#8]) = true := by decide +kernel
/-- LF-13. -/
theorem test_lf_reset : answers (exec (.lfReset .ch0) { base with lf := .all (lineBufOf [0x48#8, 0x41#8] false) })
    (fun t => t.lf.c0 == { lineBufOf [0x48#8, 0x41#8] false with len := 0 } && t.lf.c1.len == 2) = true := by decide +kernel
/-- PM-5: the order of ports and pins. -/
theorem test_poll_order : answers (exec .pmPoll
      { st 8 32 with mask := [0x81#8, 0#8, 0x04#8, 0#8, 0#8], last := [0x01#8, 0#8, 0#8, 0#8, 0#8]
                     pinIn := [0x80#8, 0#8, 0x04#8, 0#8, 0#8], msClock := 9#8 })
    (fun t => content t (.tx .ch0) ==
        [0x21#8, 0x4C#8, 0x41#8, 0x30#8, 0x0D#8, 0x0A#8, 0x21#8, 0x48#8, 0x41#8, 0x37#8, 0x0D#8, 0x0A#8,
          0x21#8, 0x48#8, 0x43#8, 0x32#8, 0x0D#8, 0x0A#8].map some &&
      t.last == [0x80#8, 0#8, 0x04#8, 0#8, 0#8] && t.lastNotify == 9#8) = true := by decide +kernel
/-- PM-4: an unwatched bit is refreshed, not reported. -/
theorem test_poll_unwatched : answers (exec .pmPoll
      { base with mask := [0#8, 0#8, 0x04#8, 0#8, 0#8], pinIn := [0#8, 0#8, 0x08#8, 0#8, 0#8], msClock := 9#8 })
    (fun t => content t (.tx .ch0) == [] && t.last == [0#8, 0#8, 0x08#8, 0#8, 0#8] && t.lastNotify == 0#8) = true := by
  decide +kernel
/-- PM-1, third step. -/
theorem test_watch : answers (exec (.pmWatch 2 0) { base with mask := [0#8, 0#8, 0x04#8, 0#8, 0#8] })
    (fun t => t.mask == [0#8, 0#8, 0x05#8, 0#8, 0#8]) = true := by decide +kernel
/-- PM-1, fourth step. -/
theorem test_unwatch : answers (exec (.pmUnwatch 2 2) { base with mask := [0#8, 0#8, 0x05#8, 0#8, 0#8] })
    (fun t => t.mask == [0#8, 0#8, 0x01#8, 0#8, 0#8]) = true := by decide +kernel
/-- PM-9. -/
theorem test_tick_wraps : answers (exec .clkTick { base with msClock := 255#8 }) (fun t => t.msClock == 0#8) = true := by
  decide +kernel
/-- CH-11. -/
theorem test_tick_masked : answers (exec .clkTick { masked base with msClock := 7#8 }) (fun t => t.msClock == 7#8) = true := by
  decide +kernel
/-- CD-13 through the dispatcher. -/
theorem test_dispatch_unknown : answers (exec .cdDispatch { base with lf := .all (lineBufOf [0x58#8, 0x51#8, 0x33#8] true) })
    (fun t => content t (.tx .ch0) == [0x3E#8, 0x58#8, 0x51#8, 0x33#8, 0x0D#8, 0x0A#8].map some && t.lf.c0.ready) = true := by
  decide +kernel
/-- CD-24: pin before port. -/
theorem test_dispatch_pin_first : answers (exec .cdDispatch
      { base with lf := .all (lineBufOf [0x48#8, 0x51#8, 0x39#8] true), env := readySchedule .ch0 500 })
    (fun t => t.run == .halted .pinRange && t.wdtArmed && !t.ie && t.wireOut.c0 ==
      [0x45#8, 0x52#8, 0x52#8, 0x4F#8, 0x52#8, 0x20#8, 0x30#8, 0x30#8, 0x30#8, 0x31#8, 0x20#8, 0x70#8, 0x69#8, 0x6E#8, 0x0D#8,
        0x0A#8]) = true := by decide +kernel
/-- R251's example. -/
theorem test_schA : answers (exec .schA { base with rx := base.rx.set .ch0 (ringOf 8 6 [0x4D#8, 0x43#8, 0x32#8, 0x0D#8]) })
    (fun t => t.mask == [0#8, 0#8, 0x04#8, 0#8, 0#8] && t.lf.c0.len == 0 && !t.lf.c0.ready && t.isEmpty (.rx .ch0) &&
      content t (.tx .ch0) == [0x3E#8, 0x4D#8, 0x43#8, 0x32#8, 0x0D#8, 0x0A#8].map some) = true := by decide +kernel
/-- R252's example. -/
theorem test_schB : answers (exec (.schB .ch2) { base with rx := base.rx.set .ch2 (ringOf 8 0 [0x4F#8, 0x4B#8, 0x0D#8]) })
    (fun t => content t (.tx .ch0) == [0x32#8, 0x4F#8, 0x4B#8, 0x0D#8, 0x0A#8].map some && t.lf.c2.len == 0 && !t.lf.c2.ready) =
    true := by decide +kernel
/-- 95 section 2.4: due at 14 after 250. -/
theorem test_schC_due : answers (exec .schC { base with lastPoll := 250#8, msClock := 14#8, pinIn := .replicate 5 1#8 })
    (fun t => t.lastPoll == 14#8 && t.last == List.replicate 5 1#8) = true := by decide +kernel
/-- 95 section 2.4: not due at 13. -/
theorem test_schC_not_due : answers (exec .schC { base with lastPoll := 250#8, msClock := 13#8, pinIn := .replicate 5 1#8 })
    (fun t => t.lastPoll == 250#8 && t.last == List.replicate 5 0#8) = true := by decide +kernel
/-- ST-2. -/
theorem test_start : answers (exec .sysStart State.reset)
    (fun t => t.ie && t.txIrqEn.c0 && t.tx.c0.wr == 6 && content t (.tx .ch0) ==
      [0x0D#8, 0x0A#8, 0x3E#8, 0x5A#8, 0x0D#8, 0x0A#8].map some) = true := by decide +kernel
/-- R274's example. -/
theorem test_fatal : answers (exec (.sysFatal .pinRange)
      { base with tx := base.tx.set .ch0 (ringOf 16 3 [0x3E#8, 0x4D#8]), env := readySchedule .ch0 600 })
    (fun t => t.run == .halted .pinRange && t.wdtArmed && !t.ie && t.wireOut.c0 ==
      [0x3E#8, 0x4D#8, 0x45#8, 0x52#8, 0x52#8, 0x4F#8, 0x52#8, 0x20#8, 0x30#8, 0x30#8, 0x30#8, 0x31#8, 0x20#8, 0x70#8, 0x69#8,
        0x6E#8, 0x0D#8, 0x0A#8]) = true := by decide +kernel
/-- CH-10, first section. -/
theorem test_crit_enter : answers (exec .sysCritEnter base) (fun t => t.ret == .saved true && !t.ie) = true := by decide +kernel
/-- CH-10, last exit. -/
theorem test_crit_exit : answers (exec (.sysCritExit true) (masked base)) (fun t => t.ie) = true := by decide +kernel
/-- CH-1 by the event. -/
theorem test_rxbyte : answers (exec (.envRxbyte .ch0 0x48#8) four)
    (fun t => t.rx.c0 == { store := [(0, 0x48#8)], rd := 0, wr := 1 } && !t.isrActive) = true := by decide +kernel
/-- CH-11. -/
theorem test_rxbyte_masked : answers (exec (.envRxbyte .ch0 0x48#8) (masked four)) (fun t => t == masked four) = true := by
  decide +kernel
/-- CH-12. -/
theorem test_txrdy : answers (exec (.envTxrdy .ch1) { base with txReady := .all false })
    (fun t => t.txReady == ⟨false, true, false, false⟩) = true := by decide +kernel
/-- ST-1. -/
theorem test_reset : answers (exec .envReset
      { base with mask := .replicate 5 0xFF#8, msClock := 9#8, run := .halted .badPort, wdtArmed := true
                  lf := .all (lineBufOf [0x41#8] true), rx := .all (ringOf 8 3 [0x41#8]), schedPhase := .c })
    (fun t => t.rx.c3.rd == 0 && t.rx.c3.wr == 0 && t.lf.c0.len == 0 && !t.lf.c0.ready && t.mask == List.replicate 5 0#8 &&
      t.msClock == 0#8 && !t.ie && t.run == .running && !t.wdtArmed && t.schedPhase == .a) = true := by decide +kernel
/-- CD-14. -/
theorem test_cmdZ : answers (exec .cmdZ base) (fun t => t == { base with wdtArmed := true, run := .resetWait }) = true := by
  decide +kernel
/-- CD-15. -/
theorem test_fwd1 : answers (exec (.cmdFwd1 [0x48#8, 0x65#8, 0x6C#8, 0x6C#8, 0x6F#8]) base)
    (fun t => content t (.tx .ch1) == [0x48#8, 0x65#8, 0x6C#8, 0x6C#8, 0x6F#8, 0x0D#8, 0x0A#8].map some &&
      content t (.tx .ch0) == [0x3E#8, 0x31#8, 0x48#8, 0x65#8, 0x6C#8, 0x6C#8, 0x6F#8, 0x0D#8, 0x0A#8].map some) = true := by
  decide +kernel
/-- R213, digit 2. -/
theorem test_fwd2 : answers (exec (.cmdFwd2 [0x5A#8]) base)
    (fun t => content t (.tx .ch2) == [0x5A#8, 0x0D#8, 0x0A#8].map some && content t (.tx .ch1) == []) = true := by decide +kernel
/-- CD-16. -/
theorem test_fwd3 : answers (exec (.cmdFwd3 [0x00#8]) base)
    (fun t => content t (.tx .ch3) == [0x00#8, 0x0D#8, 0x0A#8].map some &&
      content t (.tx .ch0) == [0x3E#8, 0x33#8, 0x00#8, 0x0D#8, 0x0A#8].map some) = true := by decide +kernel
/-- CD-1. -/
theorem test_cmdH : answers (exec (.cmdH [0x41#8, 0x33#8]) base) (fun t => t.drvLog == [.outputHigh 0 3] &&
    content t (.tx .ch0) == [0x3E#8, 0x48#8, 0x41#8, 0x33#8, 0x0D#8, 0x0A#8].map some) = true := by decide +kernel
/-- CD-2. -/
theorem test_cmdL : answers (exec (.cmdL [0x42#8, 0x30#8]) base) (fun t => t.drvLog == [.outputLow 1 0] &&
    content t (.tx .ch0) == [0x3E#8, 0x4C#8, 0x42#8, 0x30#8, 0x0D#8, 0x0A#8].map some) = true := by decide +kernel
/-- CD-3. -/
theorem test_cmdU : answers (exec (.cmdU [0x43#8, 0x37#8]) base) (fun t => t.drvLog == [.inputPullup 2 7] &&
    content t (.tx .ch0) == [0x3E#8, 0x55#8, 0x43#8, 0x37#8, 0x0D#8, 0x0A#8].map some) = true := by decide +kernel
/-- CD-4. -/
theorem test_cmdD : answers (exec (.cmdD [0x43#8, 0x37#8]) base) (fun t => t.drvLog == [.inputNopull 2 7] &&
    content t (.tx .ch0) == [0x3E#8, 0x44#8, 0x43#8, 0x37#8, 0x0D#8, 0x0A#8].map some) = true := by decide +kernel
/-- CD-5. -/
theorem test_cmdI_high : answers (exec (.cmdI [0x42#8, 0x35#8]) { base with pinIn := [0#8, 0x20#8, 0#8, 0#8, 0#8] })
    (fun t => content t (.tx .ch0) ==
      [0x3E#8, 0x49#8, 0x42#8, 0x35#8, 0x30#8, 0x30#8, 0x32#8, 0x30#8, 0x0D#8, 0x0A#8].map some) = true := by decide +kernel
/-- CD-6. -/
theorem test_cmdI_low : answers (exec (.cmdI [0x42#8, 0x35#8]) { base with pinIn := [0#8, 0xDF#8, 0#8, 0#8, 0#8] })
    (fun t => content t (.tx .ch0) ==
      [0x3E#8, 0x49#8, 0x42#8, 0x35#8, 0x30#8, 0x30#8, 0x30#8, 0x30#8, 0x0D#8, 0x0A#8].map some) = true := by decide +kernel
/-- CD-8. -/
theorem test_cmdA : answers (exec (.cmdA [0x46#8, 0x30#8]) { base with adcIn := [0x03FF#16, 0x0001#16] })
    (fun t => t.drvLog == [.readAnalog 3 0] && t.adcIn == [0x0001#16] && content t (.tx .ch0) ==
      [0x3E#8, 0x41#8, 0x46#8, 0x30#8, 0x30#8, 0x33#8, 0x46#8, 0x46#8, 0x0D#8, 0x0A#8].map some) = true := by decide +kernel
/-- CD-22. -/
theorem test_cmdA_not_analog : answers (exec (.cmdA [0x42#8, 0x30#8]) { base with env := readySchedule .ch0 600 })
    (fun t => t.run == .halted .badAnalogPort && t.drvLog == []) = true := by decide +kernel
/-- CD-10. -/
theorem test_cmdM : answers (exec (.cmdM [0x43#8, 0x32#8]) base) (fun t => t.mask == [0#8, 0#8, 0x04#8, 0#8, 0#8] &&
    content t (.tx .ch0) == [0x3E#8, 0x4D#8, 0x43#8, 0x32#8, 0x0D#8, 0x0A#8].map some) = true := by decide +kernel
/-- CD-12. -/
theorem test_cmdN : answers (exec (.cmdN [0x43#8, 0x32#8]) { base with mask := [0#8, 0#8, 0x05#8, 0#8, 0#8] })
    (fun t => t.mask == [0#8, 0#8, 0x01#8, 0#8, 0#8] &&
      content t (.tx .ch0) == [0x3E#8, 0x4E#8, 0x43#8, 0x32#8, 0x0D#8, 0x0A#8].map some) = true := by decide +kernel
/-- CD-13. -/
theorem test_cmdUnk : answers (exec (.cmdUnk 0x58#8 [0x51#8, 0x33#8]) base) (fun t => t.drvLog == [] &&
    content t (.tx .ch0) == [0x3E#8, 0x58#8, 0x51#8, 0x33#8, 0x0D#8, 0x0A#8].map some) = true := by decide +kernel
/-- CD-19. -/
theorem test_cmdUnk_pin : answers (exec (.cmdUnk 0x58#8 [0x51#8, 0x39#8]) { base with env := readySchedule .ch0 600 })
    (fun t => t.run == .halted .pinRange) = true := by decide +kernel
/-- 95 section 2.5, `hex16`. -/
theorem test_hex16 : hex16 0xABCD#16 = [0x41#8, 0x42#8, 0x43#8, 0x44#8] ∧ hex16 0x0A0B#16 = [0x30#8, 0x41#8, 0x30#8, 0x42#8] := by
  decide
/-- A step runs the first request and drops it. -/
theorem test_step_request : answers (step (base.withFetchWord 8 0x52)) (fun t => t.ret == .saved true && t.requests == []) =
    true := by decide +kernel
/-- R254, R310: from reset, with nothing placed, the first step is `SYS.START`. -/
theorem test_step_reset : answers (step State.reset) (fun t => t.ie && !t.startPending && t.schedPhase == .a) = true := by
  decide +kernel
/-- R254: a pass with nothing to do advances the phase. -/
theorem test_step_phase : answers (step base) (fun t => t.schedPhase == .b1) = true := by decide +kernel

/-! ### Witnesses: for every statement with hypotheses, a state and operands that meet them, one for each clause -/

/-- A full control transmit buffer of `four`. -/
def fullTx : State := { four with tx := four.tx.set .ch0 (ringOf 4 2 [0x41#8, 0x42#8, 0x43#8]) }

/-- A full receive buffer of channel 1 of `four`, with the schedule `env`. -/
def fullRx (env : List Turn) : State :=
  { four with rx := four.rx.set .ch1 (ringOf 4 2 [0x41#8, 0x42#8, 0x43#8]), env := env }

/-- A ready line on every channel. -/
def lineReady (bs : List Byte) : State := { base with lf := .all (lineBufOf bs true) }

theorem wf_of {s : State} (h : s.wfCheck = true) : s.wf := State.wf_of_check h

theorem wf_base : base.wf := wf_of (by decide +kernel)
theorem wf_four : four.wf := wf_of (by decide +kernel)
theorem wf_fullTx : fullTx.wf := wf_of (by decide +kernel)
theorem rest_base : base.atRest := ⟨rfl, rfl, rfl⟩
theorem rest_four : four.atRest := ⟨rfl, rfl, rfl⟩
theorem rest_fullTx : fullTx.atRest := ⟨rfl, rfl, rfl⟩

theorem witness_StartupRunsFirstAndQueuesBanner :
    (State.reset.requests = [] ∧ State.reset.run = .running ∧ State.reset.main = [] ∧ State.reset.startPending = true) ∧
    ((masked (st 2 7)).wf ∧ (masked (st 2 7)).atRest ∧ (masked (st 2 7)).room .ch0 6) :=
  ⟨⟨rfl, rfl, rfl, rfl⟩, wf_of (by decide +kernel), ⟨rfl, rfl, rfl⟩, by decide +kernel⟩

theorem witness_RequestStepRunsDecodedInstruction :
    let s := { base with requests := [.line [0x5A#8], .op [0x48#8]] }
    s.requests = .line [0x5A#8] :: [.op [0x48#8]] ∧ decode (.line [0x5A#8]) = .ok .cmdZ := ⟨rfl, rfl⟩

theorem witness_TableWordRunsAsDecoded : decodeTableWord 8 0x58 = some (.envRxbyte .ch0 0#8) := by decide

theorem witness_OperationCodesAreTheTable :
    Channel.ch1 ≠ .ch0 ∧ Channel.ch3 ≠ .ch0 ∧
    (∀ op ∈ [0x05#8, 0xFF#8], BitVec.toNat op ∉ [0x00, 0x01, 0x02, 0x03, 0x04, 0x10, 0x11, 0x12, 0x13, 0x20, 0x21, 0x30, 0x31,
        0x32, 0x38, 0x40, 0x48, 0x49, 0x4A, 0x50, 0x51, 0x52, 0x53, 0x58, 0x59, 0x5A]) ∧
    ({ base with requests := [.op [0x05#8, 0x00#8]] } : State).requests = .op (0x05#8 :: [0x00#8]) :: [] := by
  refine ⟨by decide, by decide, by decide, rfl⟩

theorem witness_LineFormatSelection :
    ∀ op ∈ [0x30#8, 0x34#8, 0x68#8, 0xFF#8],
      op ∉ [0x31#8, 0x32#8, 0x33#8, 0x48#8, 0x4C#8, 0x55#8, 0x44#8, 0x49#8, 0x41#8, 0x4D#8, 0x4E#8, 0x5A#8] := by decide

theorem witness_DecodeEncodeRoundTrip :
    (Instr.pmWatch 255 7).wf ∧ (Instr.schB .ch3).wf ∧ (Instr.rbPushd (.rx .ch3) 0xFF#8).wf ∧
      (Instr.cmdUnk 0x5A#8 [0x00#8]).wf ∧ (Instr.cmdFwd1 []).wf := by decide

theorem witness_OperationRequestHasOneMeaning : decode (.op [0x31#8, 0xFF#8, 0x07#8]) = .ok (.pmWatch 255 7) := rfl

theorem witness_RingCountInvariant : (st 2 2).wf := wf_of (by decide +kernel)

theorem witness_RbEmptyAndFullAnswer : fullTx.wf ∧ fullTx.atRest := ⟨wf_fullTx, rest_fullTx⟩

theorem witness_RbPushStoresOrFails : (fullTx.wf ∧ fullTx.atRest) ∧ (four.wf ∧ four.atRest) :=
  ⟨⟨wf_fullTx, rest_fullTx⟩, wf_four, rest_four⟩

theorem witness_RbPopTakesOldest :
    (four.wf ∧ four.atRest ∧ (four.ring (.tx .ch0)).rd = (four.ring (.tx .ch0)).wr) ∧
    (fullTx.wf ∧ fullTx.atRest ∧ (fullTx.ring (.tx .ch0)).rd ≠ (fullTx.ring (.tx .ch0)).wr ∧
      Memory.read (fullTx.ring (.tx .ch0)).store (fullTx.ring (.tx .ch0)).rd = some 0x41#8) :=
  ⟨⟨wf_four, rest_four, rfl⟩, wf_fullTx, rest_fullTx, by decide +kernel, by decide +kernel⟩

theorem witness_RbPushdDropsOldest :
    (fullRx []).wf ∧ (fullRx []).holds (.rx .ch1) [0x41#8, 0x42#8, 0x43#8] :=
  ⟨wf_of (by decide +kernel), by decide +kernel⟩

theorem witness_FifoOrder :
    (four.wf ∧ four.atRest ∧ (four.ring (.rx .ch0)).rd = (four.ring (.rx .ch0)).wr ∧
      ∃ r, runFifo (.rx .ch0) [.pop, .push 1#8, .push 2#8, .push 3#8, .pop, .push 4#8] four = some r ∧
        r.1 = [1#8, 2#8, 3#8, 4#8] ∧ r.2.1 = [1#8]) ∧
    ((fullRx []).wf ∧ (fullRx []).atRest ∧ (fullRx []).holds (.rx .ch1) [0x41#8, 0x42#8, 0x43#8]) := by
  refine ⟨⟨wf_four, rest_four, rfl, ?_⟩, wf_of (by decide +kernel), ⟨rfl, rfl, rfl⟩, by decide +kernel⟩
  have h : (match runFifo (.rx .ch0) [.pop, .push 1#8, .push 2#8, .push 3#8, .pop, .push 4#8] four with
      | some r => r.1 == [1#8, 2#8, 3#8, 4#8] && r.2.1 == [1#8]
      | none => false) = true := by decide +kernel
  split at h
  · rename_i r hr
    exact ⟨r, hr, by simpa using h⟩
  · cases h

theorem witness_PopRacesDropOldest :
    (let s := fullRx [.main, .main, .rxByte .ch1 0x44#8]
     s.wf ∧ s.run = .running ∧ s.main = [] ∧ s.ie = true ∧ s.holds (.rx .ch1) (0x41#8 :: [0x42#8, 0x43#8]) ∧
       [0x42#8, 0x43#8].length + 2 = s.capacity (.rx .ch1) ∧ s.env = [.main, .main, .rxByte .ch1 0x44#8]) ∧
    (let s := fullRx [.main, .main, .rxByte .ch1 0x44#8, .rxByte .ch1 0x45#8]
     s.wf ∧ s.run = .running ∧ s.main = [] ∧ s.ie = true ∧ s.holds (.rx .ch1) (0x41#8 :: [0x42#8, 0x43#8]) ∧
       [0x42#8, 0x43#8].length + 2 = s.capacity (.rx .ch1) ∧
       s.env = [.main, .main, .rxByte .ch1 0x44#8, .rxByte .ch1 0x45#8]) :=
  ⟨⟨wf_of (by decide +kernel), rfl, rfl, rfl, by decide +kernel, rfl, rfl⟩,
    wf_of (by decide +kernel), rfl, rfl, rfl, by decide +kernel, rfl, rfl⟩

theorem witness_StaleEmptinessDelaysOnly :
    let s := fullRx [.main, .rxByte .ch1 0x44#8]
    s.wf ∧ s.run = .running ∧ s.main = [] ∧ s.ie = true ∧ s.env = [.main, .rxByte .ch1 0x44#8] ∧
      s.holds (.rx .ch1) (0x41#8 :: [0x42#8, 0x43#8]) ∧ [0x42#8, 0x43#8].length + 2 = s.capacity (.rx .ch1) :=
  ⟨wf_of (by decide +kernel), rfl, rfl, rfl, rfl, by decide +kernel, rfl⟩

theorem witness_ReceiveInterruptQueuesByte : (fullRx []).wf ∧ (fullRx []).ie = true := ⟨wf_of (by decide +kernel), rfl⟩

theorem witness_InterruptsNotTakenWhenMasked :
    ((masked base).ie = false) ∧ (({ base with isrActive := true } : State).isrActive = true) ∧
      (base.txIrqEn.get .ch2 = false) ∧ (({ base with txReady := .all false } : State).txReady.get .ch2 = false) :=
  ⟨rfl, rfl, rfl, rfl⟩

theorem witness_TransmitInterruptSendsOrDisables :
    (let s := { four with txIrqEn := .all true }
     s.wf ∧ s.ie = true ∧ s.txIrqEn.get .ch0 = true ∧ s.txReady.get .ch0 = true ∧
       (s.ring (.tx .ch0)).rd = (s.ring (.tx .ch0)).wr) ∧
    (let s := { fullTx with txIrqEn := .all true }
     s.wf ∧ s.ie = true ∧ s.txIrqEn.get .ch0 = true ∧ s.txReady.get .ch0 = true ∧
       (s.ring (.tx .ch0)).rd ≠ (s.ring (.tx .ch0)).wr ∧
       Memory.read (s.ring (.tx .ch0)).store (s.ring (.tx .ch0)).rd = some 0x41#8) :=
  ⟨⟨wf_of (by decide +kernel), rfl, rfl, rfl, rfl⟩, wf_of (by decide +kernel), rfl, rfl, rfl, by decide +kernel, by decide +kernel⟩

theorem witness_TransmitQueuesOrWaits :
    (let s := { four with tx := four.tx.set .ch0 (ringOf 4 2 [0x41#8, 0x42#8]) }
     s.wf ∧ s.atRest ∧ s.ie = true ∧ ((s.ring (.tx .ch0)).wr + 1) % s.capacity (.tx .ch0) ≠ (s.ring (.tx .ch0)).rd) ∧
    (fullTx.wf ∧ fullTx.atRest ∧ fullTx.ie = true ∧
      ((fullTx.ring (.tx .ch0)).wr + 1) % fullTx.capacity (.tx .ch0) = (fullTx.ring (.tx .ch0)).rd) :=
  ⟨⟨wf_of (by decide +kernel), ⟨rfl, rfl, rfl⟩, rfl, by decide +kernel⟩, wf_fullTx, rest_fullTx, rfl, by decide +kernel⟩

theorem witness_BackpressureIsLiftedByTransmitInterrupt :
    let s := { fullTx with txIrqEn := .all true, env := List.replicate 9 Turn.main ++ [Turn.txi .ch0] }
    s.wf ∧ s.run = .running ∧ s.main = [] ∧ s.ie = true ∧ s.env = List.replicate 9 Turn.main ++ [Turn.txi .ch0] ∧
      s.txIrqEn.get .ch0 = true ∧ s.txReady.get .ch0 = true ∧ s.holds (.tx .ch0) (0x41#8 :: [0x42#8, 0x43#8]) ∧
      [0x42#8, 0x43#8].length + 2 = s.capacity (.tx .ch0) :=
  ⟨wf_of (by decide +kernel), rfl, rfl, rfl, rfl, rfl, rfl, by decide +kernel, rfl⟩

theorem witness_SynchronousTransmitKeepsCallOrder :
    let s := { masked fullTx with env := readySchedule .ch0 100 }
    s.wf ∧ s.run = .running ∧ s.main = [] ∧ s.ie = false ∧ s.holds (.tx .ch0) [0x41#8, 0x42#8, 0x43#8] ∧
      (∀ e ∈ s.env, e ≠ .reset) ∧ ∃ t, exec (.chTx .ch0 0x44#8) s = .next t ∧ t.main = [] := by
  refine ⟨wf_of (by decide +kernel), rfl, rfl, rfl, by decide +kernel, by decide +kernel, ?_⟩
  obtain ⟨t, ht, hm⟩ := next_of_answers (p := fun t => t.main == [])
    (show answers (exec (.chTx .ch0 0x44#8) { masked fullTx with env := readySchedule .ch0 100 }) (fun t => t.main == []) = true
      by decide +kernel)
  exact ⟨t, ht, by simpa using hm⟩

theorem witness_DrainSendsWholeBuffer :
    (base.atRest ∧ (base.ring (.tx .ch3)).rd = (base.ring (.tx .ch3)).wr) ∧
    (let s := { fullTx with txReady := .all false }
     s.atRest ∧ (s.ring (.tx .ch0)).rd ≠ (s.ring (.tx .ch0)).wr ∧ s.txReady.get .ch0 = false) ∧
    (let s := { fullTx with env := readySchedule .ch0 80 }
     s.wf ∧ s.run = .running ∧ s.main = [] ∧ s.env = readySchedule .ch0 80 ∧
       20 * ([0x41#8, 0x42#8, 0x43#8].length + 1) ≤ 80 ∧ s.holds (.tx .ch0) [0x41#8, 0x42#8, 0x43#8]) :=
  ⟨⟨rest_base, rfl⟩, ⟨⟨rfl, rfl, rfl⟩, by decide +kernel, rfl⟩,
    wf_of (by decide +kernel), rfl, rfl, rfl, by decide, by decide +kernel⟩

theorem witness_HandlersNeverStrandQueuedBytes :
    (let s := { fullTx with txIrqEn := .all true }
     s.wf ∧ Turn.txi .ch0 ≠ .reset ∧ (∃ t, deliver (.txi .ch0) s = .next t) ∧ s.txIrqEn.get .ch0 = true) ∧
    (let s := { four with txIrqEn := .all true }
     s.wf ∧ (∃ t, deliver (.txi .ch0) s = .next t) ∧ s.count (.tx .ch0) = 0) :=
  ⟨⟨wf_of (by decide +kernel), by decide, next_exists (by decide +kernel), rfl⟩,
    wf_of (by decide +kernel), next_exists (by decide +kernel), by decide +kernel⟩

theorem witness_CriticalSectionSavesAndRestores : base.atRest := rest_base

theorem witness_HandlersKeepMainsState :
    base.wf ∧ Turn.pin 4 0xFF#8 ≠ .reset ∧ (∃ t, deliver (.pin 4 0xFF#8) base = .next t) ∧
      (∃ t, deliver (.rxByte .ch0 0x41#8) base = .next t) ∧ ∃ t, deliver .tick base = .next t :=
  ⟨wf_base, by decide, next_exists (by decide +kernel), next_exists (by decide +kernel), next_exists (by decide +kernel)⟩

theorem witness_LineResetClearsLenAndReady : (lineReady [0x41#8]).atRest := ⟨rfl, rfl, rfl⟩

/-- A ready line; from `IDLE` a line behind discarded bytes; from `ACCUM` a NUL as content and `L - 1` bytes; the `L`-th byte. -/
theorem witness_AppendFramesOneLine :
    ((lineReady [0x41#8]).atRest ∧ ((lineReady [0x41#8]).lf.get .ch2).ready = true) ∧
    (let u := [0x0D#8, 0x00#8, 0x48#8, 0x00#8, 0x33#8, 0x0A#8, 0x5A#8]
     let s := { base with rx := base.rx.set .ch2 (ringOf 8 5 u) }
     s.wf ∧ s.atRest ∧ (s.lf.get .ch2).ready = false ∧ lineOf .ch2 s = .ok [] ∧ s.holds (.rx .ch2) u ∧
       framedLine [] u = [0x48#8, 0x00#8, 0x33#8] ∧ behindLine [] u = [0x0A#8, 0x5A#8] ∧
       (framedLine [] u).length < s.cfg.lineCap) ∧
    (let part := List.replicate 6 0x41#8
     let s := { base with rx := .all (ringOf 8 7 [0x00#8, 0x0D#8, 0x0A#8]), lf := .all (lineBufOf part false) }
     s.wf ∧ s.atRest ∧ (s.lf.get .ch2).ready = false ∧ lineOf .ch2 s = .ok part ∧
       s.holds (.rx .ch2) [0x00#8, 0x0D#8, 0x0A#8] ∧ framedLine part [0x00#8, 0x0D#8, 0x0A#8] = part ++ [0x00#8] ∧
       (framedLine part [0x00#8, 0x0D#8, 0x0A#8]).length + 1 = s.cfg.lineCap) ∧
    (let part := List.replicate 6 0x41#8
     let s := { base with rx := .all (ringOf 8 7 [0x42#8, 0x43#8, 0x0D#8]), lf := .all (lineBufOf part false) }
     s.wf ∧ s.atRest ∧ (s.lf.get .ch2).ready = false ∧ lineOf .ch2 s = .ok part ∧
       s.holds (.rx .ch2) [0x42#8, 0x43#8, 0x0D#8] ∧ part.length < s.cfg.lineCap ∧
       (framedLine part [0x42#8, 0x43#8, 0x0D#8]).length = s.cfg.lineCap ∧ s.holds (.tx .ch0) []) :=
  ⟨⟨⟨rfl, rfl, rfl⟩, rfl⟩,
    ⟨wf_of (by decide +kernel), ⟨rfl, rfl, rfl⟩, rfl, by rfl, by decide +kernel, by decide, by decide, by decide +kernel⟩,
    ⟨wf_of (by decide +kernel), ⟨rfl, rfl, rfl⟩, rfl, by rfl, by decide +kernel, by decide, by decide +kernel⟩,
    wf_of (by decide +kernel), ⟨rfl, rfl, rfl⟩, rfl, by rfl, by decide +kernel, by decide +kernel, by decide +kernel,
    by decide +kernel⟩

theorem witness_WatchAndUnwatchChangeMaskBit :
    base.wf ∧ base.atRest ∧ 0 < base.cfg.numPorts ∧ 4 < base.cfg.numPorts ∧ base.cfg.numPorts ≤ 5 :=
  ⟨wf_base, rest_base, by decide +kernel, by decide +kernel, by decide +kernel⟩

/-- Eight changed pins of the first port: a report of 48 bytes. -/
def storm : State := { st 8 49 with mask := [0xFF#8, 0#8, 0#8, 0#8, 0#8], pinIn := [0xFF#8, 1#8, 0#8, 0#8, 0#8], msClock := 20#8 }

theorem witness_PollReportsChangesAndSamples :
    storm.wf ∧ storm.atRest ∧ storm.ie = true ∧ storm.holds (.tx .ch0) [] ∧ storm.pollReport.length = 48 ∧
      storm.room .ch0 storm.pollReport.length :=
  ⟨wf_of (by decide +kernel), ⟨rfl, rfl, rfl⟩, rfl, by decide +kernel, by decide +kernel, by decide +kernel⟩

theorem witness_PollDueByUnsignedDifference : pollDue (BitVec.ofNat 8 ((250#8).toNat + 20)) 250#8 = true := by decide

theorem witness_TickAdvancesClock :
    (base.ie = true ∧ base.isrActive = false) ∧ (masked base).ie = false ∧ ({ base with isrActive := true } : State).isrActive = true :=
  ⟨⟨rfl, rfl⟩, rfl, rfl⟩

theorem witness_SchARunsOneCommand :
    let s := { st 8 7 with rx := (st 8 7).rx.set .ch0 (ringOf 8 6 ([0x48#8, 0x4B#8, 0x37#8, 0x0D#8] ++ [0x5A#8])) }
    s.wf ∧ s.atRest ∧ s.ie = true ∧ (s.lf.get .ch0).len = 0 ∧ (s.lf.get .ch0).ready = false ∧
      s.holds (.rx .ch0) ([0x48#8, 0x4B#8, 0x37#8, 0x0D#8] ++ [0x5A#8]) ∧ s.holds (.tx .ch0) [] ∧ s.room .ch0 6 ∧
      (0x4B#8 : Byte) ≠ 0x0D#8 ∧ (0x4B#8 : Byte) ≠ 0x0A#8 ∧ portIndex s.cfg 0x4B#8 = some 4 ∧ pinIndex 0x37#8 = some 7 :=
  ⟨wf_of (by decide +kernel), ⟨rfl, rfl, rfl⟩, rfl, rfl, rfl, by decide +kernel, by decide +kernel, by decide +kernel,
    by decide, by decide, by decide +kernel, by decide⟩

/-- The running block's case with exact room, from a partial line; no terminator; a line too long; a ready line; nothing at all. -/
theorem witness_SchBForwardsReadyLine :
    (let s := { st 8 6 with rx := .all (ringOf 8 6 [0x4B#8, 0x0D#8, 0x5A#8]), lf := .all (lineBufOf [0x4F#8] false) }
     s.wf ∧ s.atRest ∧ Channel.ch3 ≠ .ch0 ∧ (s.lf.get .ch3).ready = false ∧ lineOf .ch3 s = .ok [0x4F#8] ∧
       s.holds (.rx .ch3) [0x4B#8, 0x0D#8, 0x5A#8] ∧ s.holds (.tx .ch0) [] ∧
       behindLine [0x4F#8] [0x4B#8, 0x0D#8, 0x5A#8] ≠ [] ∧ framedLine [0x4F#8] [0x4B#8, 0x0D#8, 0x5A#8] = [0x4F#8, 0x4B#8] ∧
       [0x4F#8, 0x4B#8].length < s.cfg.lineCap ∧ s.ie = true ∧ s.room .ch0 ([0x4F#8, 0x4B#8].length + 3)) ∧
    (let s := { base with rx := .all (ringOf 8 6 [0x00#8, 0x4B#8]) }
     s.wf ∧ s.atRest ∧ (s.lf.get .ch1).ready = false ∧ lineOf .ch1 s = .ok [] ∧ s.holds (.rx .ch1) [0x00#8, 0x4B#8] ∧
       s.holds (.tx .ch0) [] ∧ behindLine [] [0x00#8, 0x4B#8] = [] ∧ ([] : List Byte).length < s.cfg.lineCap) ∧
    (let part := List.replicate 7 0x41#8
     let s := { base with rx := .all (ringOf 8 6 [0x4B#8, 0x0D#8]), lf := .all (lineBufOf part false) }
     s.wf ∧ s.atRest ∧ (s.lf.get .ch1).ready = false ∧ lineOf .ch1 s = .ok part ∧ s.holds (.rx .ch1) [0x4B#8, 0x0D#8] ∧
       s.holds (.tx .ch0) [] ∧ s.cfg.lineCap = (framedLine part [0x4B#8, 0x0D#8]).length ∧ part.length < s.cfg.lineCap) ∧
    (let s := { st 8 6 with lf := .all (lineBufOf [0x4F#8, 0x4B#8] true) }
     s.wf ∧ s.atRest ∧ Channel.ch3 ≠ .ch0 ∧ (s.lf.get .ch3).ready = true ∧ s.ie = true ∧
       lineOf .ch3 s = .ok [0x4F#8, 0x4B#8] ∧ s.room .ch0 ([0x4F#8, 0x4B#8].length + 3)) ∧
    (base.wf ∧ base.atRest ∧ Channel.ch1 ≠ .ch0 ∧ (base.lf.get .ch1).ready = false ∧
      (base.ring (.rx .ch1)).rd = (base.ring (.rx .ch1)).wr) :=
  ⟨⟨wf_of (by decide +kernel), ⟨rfl, rfl, rfl⟩, by decide, rfl, by rfl, by decide +kernel, by decide +kernel, by decide,
      by decide, by decide +kernel, rfl, by decide +kernel⟩,
    ⟨wf_of (by decide +kernel), ⟨rfl, rfl, rfl⟩, rfl, by rfl, by decide +kernel, by decide +kernel, by decide,
      by decide +kernel⟩,
    ⟨wf_of (by decide +kernel), ⟨rfl, rfl, rfl⟩, rfl, by rfl, by decide +kernel, by decide +kernel, by decide +kernel,
      by decide +kernel⟩,
    ⟨wf_of (by decide +kernel), ⟨rfl, rfl, rfl⟩, by decide, rfl, rfl, by rfl, by decide +kernel⟩,
    wf_base, rest_base, by decide, rfl, rfl⟩

theorem witness_SchCPollsWhenDue :
    (let s := { base with lastPoll := 250#8, msClock := 13#8 }
     s.wf ∧ s.atRest ∧ (s.msClock - s.lastPoll).toNat < 20) ∧
    (storm.wf ∧ storm.atRest ∧ 20 ≤ (storm.msClock - storm.lastPoll).toNat ∧ storm.ie = true ∧ storm.holds (.tx .ch0) [] ∧
      storm.room .ch0 storm.pollReport.length) :=
  ⟨⟨wf_of (by decide +kernel), ⟨rfl, rfl, rfl⟩, by decide +kernel⟩,
    wf_of (by decide +kernel), ⟨rfl, rfl, rfl⟩, by decide +kernel, rfl, by decide +kernel, by decide +kernel⟩

theorem witness_PhaseAdvancesAfterItsStep :
    (base.wf ∧ base.atRest ∧ base.requests = [] ∧ base.startPending = false) ∧
    (∃ t, exec .schA base = .next t ∧ t.run = .running ∧ t.main = []) ∧
    (∃ t, exec .schC { base with schedPhase := .c } = .next t ∧ t.run = .running ∧ t.main = []) ∧
    ((lineReady [0x5A#8]).wf ∧ (lineReady [0x5A#8]).atRest ∧
      ∃ t, exec .schA (lineReady [0x5A#8]) = .next t ∧ t.run = .resetWait) := by
  refine ⟨⟨wf_base, rest_base, rfl, rfl⟩, ?_, ?_, wf_of (by decide +kernel), ⟨rfl, rfl, rfl⟩, ?_⟩
  · obtain ⟨t, ht, h⟩ := next_of_answers (show answers (exec .schA base) (fun t => t.run == .running && t.main == []) = true
      by decide +kernel)
    exact ⟨t, ht, by simpa using h⟩
  · obtain ⟨t, ht, h⟩ := next_of_answers (show answers (exec .schC { base with schedPhase := .c })
      (fun t => t.run == .running && t.main == []) = true by decide +kernel)
    exact ⟨t, ht, by simpa using h⟩
  · obtain ⟨t, ht, h⟩ := next_of_answers (show answers (exec .schA (lineReady [0x5A#8])) (fun t => t.run == .resetWait) = true
      by decide +kernel)
    exact ⟨t, ht, by simpa using h⟩

/-- Room for exactly six bytes, first and last port, first and last pin. -/
theorem witness_PinCommandsActAndRespond :
    (st 2 7).wf ∧ (st 2 7).atRest ∧ (st 2 7).ie = true ∧ (st 2 7).room .ch0 6 ∧ portIndex (st 2 7).cfg 0x41#8 = some 0 ∧
      portIndex (st 2 7).cfg 0x4B#8 = some 4 ∧ pinIndex 0x30#8 = some 0 ∧ pinIndex 0x37#8 = some 7 :=
  ⟨wf_of (by decide +kernel), ⟨rfl, rfl, rfl⟩, rfl, by decide +kernel, by decide +kernel, by decide +kernel, by decide, by decide⟩

/-- Room for exactly ten bytes. -/
theorem witness_DigitalReadReportsPinBit :
    (st 2 11).wf ∧ (st 2 11).atRest ∧ (st 2 11).ie = true ∧ (st 2 11).room .ch0 10 ∧
      portIndex (st 2 11).cfg 0x42#8 = some 1 ∧ pinIndex 0x35#8 = some 5 :=
  ⟨wf_of (by decide +kernel), ⟨rfl, rfl, rfl⟩, rfl, by decide +kernel, by decide +kernel, by decide⟩

theorem witness_AnalogReadReportsSample :
    ((st 2 11).wf ∧ (st 2 11).atRest ∧ portIndex (st 2 11).cfg 0x46#8 = some 3 ∧ pinIndex 0x30#8 = some 0 ∧
      0x46#8 ∈ (st 2 11).cfg.analogPorts ∧ (st 2 11).ie = true ∧ (st 2 11).room .ch0 10 ∧
      ({ st 2 11 with adcIn := [0x03FF#16] } : State).adcIn = 0x03FF#16 :: []) ∧
    (portIndex (st 2 11).cfg 0x42#8 = some 1 ∧ 0x42#8 ∉ (st 2 11).cfg.analogPorts ∧ (st 2 11).holds (.tx .ch0) []) :=
  ⟨⟨wf_of (by decide +kernel), ⟨rfl, rfl, rfl⟩, by decide +kernel, by decide, by decide +kernel, rfl, by decide +kernel, rfl⟩,
    by decide +kernel, by decide +kernel, by decide +kernel⟩

theorem witness_WatchCommandsUpdateMask :
    (st 2 7).wf ∧ (st 2 7).atRest ∧ (st 2 7).ie = true ∧ (st 2 7).room .ch0 6 ∧ portIndex (st 2 7).cfg 0x43#8 = some 2 ∧
      pinIndex 0x32#8 = some 2 :=
  ⟨wf_of (by decide +kernel), ⟨rfl, rfl, rfl⟩, rfl, by decide +kernel, by decide +kernel, by decide⟩

theorem witness_UnknownCommandIsEchoed :
    (st 2 7).wf ∧ (st 2 7).atRest ∧ (st 2 7).ie = true ∧ (st 2 7).room .ch0 6 ∧ pinIndex 0x33#8 = some 3 :=
  ⟨wf_of (by decide +kernel), ⟨rfl, rfl, rfl⟩, rfl, by decide +kernel, by decide⟩

theorem witness_ForwardSendsPayloadAndEcho :
    (let s := st 2 11
     let payload := List.replicate 6 0x00#8
     s.wf ∧ s.atRest ∧ payload ≠ [] ∧ payload.length + 1 < s.cfg.lineCap ∧ s.ie = true ∧ s.room .ch0 (payload.length + 4) ∧
       s.room .ch1 (payload.length + 2) ∧ s.room .ch2 (payload.length + 2) ∧ s.room .ch3 (payload.length + 2)) ∧
    (base.wf ∧ base.atRest ∧ base.holds (.tx .ch0) []) :=
  ⟨⟨wf_of (by decide +kernel), ⟨rfl, rfl, rfl⟩, by decide, by decide +kernel, rfl, by decide +kernel, by decide +kernel,
      by decide +kernel, by decide +kernel⟩,
    wf_base, rest_base, by decide +kernel⟩

theorem witness_EmittedBytesQueueInOrder :
    let s := { four with tx := four.tx.set .ch3 (ringOf 4 3 [0x41#8]) }
    s.wf ∧ s.holds (.tx .ch3) [0x41#8] ∧ s.room .ch3 [0x42#8, 0x43#8].length ∧ [0x42#8, 0x43#8] ≠ [] :=
  ⟨wf_of (by decide +kernel), by decide +kernel, by decide +kernel, by decide⟩

theorem witness_ResetCommandStopsMain : base.atRest := rest_base

theorem witness_IllegalCommandsAreFatal :
    base.wf ∧ base.atRest ∧ base.holds (.tx .ch0) [] ∧ [0x41#8].length < 2 ∧
      (∀ pin ∈ [0x2F#8, 0x38#8], ¬ (0x30 ≤ BitVec.toNat pin ∧ BitVec.toNat pin ≤ 0x37)) ∧
      (0x30 ≤ (0x37#8).toNat ∧ (0x37#8).toNat ≤ 0x37 ∧ 0x51#8 ∉ base.cfg.ports) ∧
      Instr.cmdH [0x51#8, 0x37#8] ≠ .cmdUnk 0x58#8 [0x51#8, 0x37#8] ∧
      decode (.line [0x5A#8, 0x5A#8]) = .ok (.cmdUnk 0x5A#8 [0x5A#8]) ∧ [0x5A#8].length < 2 :=
  ⟨wf_base, rest_base, by decide +kernel, by decide, by decide, by decide +kernel, by decide, rfl, by decide⟩

theorem witness_DispatchRunsTheReadyLine :
    (let s := lineReady [0x58#8, 0x51#8, 0x33#8]
     s.atRest ∧ (s.lf.get .ch0).ready = true ∧ lineOf .ch0 s = .ok [0x58#8, 0x51#8, 0x33#8] ∧
       decode (.line [0x58#8, 0x51#8, 0x33#8]) = .ok (.cmdUnk 0x58#8 [0x51#8, 0x33#8]) ∧ 100 < s.budget ∧
       ∃ t, runTurns 100 (s.setMain [.call (.cmdUnk 0x58#8 [0x51#8, 0x33#8])]) = .next t ∧ t.settled = true) ∧
    (let s := lineReady [0x5A#8]
     s.atRest ∧ (s.lf.get .ch0).ready = true ∧ lineOf .ch0 s = .ok [0x5A#8]) ∧
    (base.atRest ∧ (base.lf.get .ch0).ready = false) :=
  ⟨⟨⟨rfl, rfl, rfl⟩, rfl, by rfl, rfl, by decide +kernel, next_of_answers (by decide +kernel)⟩,
    ⟨⟨rfl, rfl, rfl⟩, rfl, by rfl⟩, rest_base, rfl⟩

theorem witness_FatalReportsAndHalts :
    let n := 50 * (four.capacity (.tx .ch0) + (diagnostic four.cfg .badPort).length)
    let s := { fullTx with env := readySchedule .ch0 n }
    s.wf ∧ s.run = .running ∧ s.main = [] ∧ s.holds (.tx .ch0) [0x41#8, 0x42#8, 0x43#8] ∧ s.env = readySchedule .ch0 n ∧
      50 * (s.capacity (.tx .ch0) + (diagnostic s.cfg .badPort).length) ≤ n :=
  ⟨wf_of (by decide +kernel), rfl, rfl, by decide +kernel, rfl, Nat.le_refl _⟩

theorem witness_FatalEntryDisablesInterrupts :
    fullTx.wf ∧ fullTx.atRest ∧ fullTx.holds (.tx .ch0) [0x41#8, 0x42#8, 0x43#8] :=
  ⟨wf_fullTx, rest_fullTx, by decide +kernel⟩

theorem witness_FatalIsNotLeft :
    (let s := { masked base with main := [.call (.chTx .ch0 0x0A#8), .fatalArm, .fatalHalt .badPort]
                                 requests := [.op [0x53#8, 0x01#8]], env := [.txi .ch0] }
     s.fatalUnderway .badPort ∧ (∀ e ∈ s.env, e ≠ .reset) ∧ (∀ r ∈ s.requests, decode r ≠ .ok .envReset) ∧
       ∃ t, step s = .next t) ∧
    (let s := { masked base with run := .halted .badPort, env := [.rxByte .ch0 0x41#8] }
     s.fatalUnderway .badPort ∧ (∀ e ∈ s.env, e ≠ .reset) ∧ (∀ r ∈ s.requests, decode r ≠ .ok .envReset) ∧
       ∃ t, step s = .next t) := by
  refine ⟨⟨⟨rfl, .inr ⟨rfl, [.call (.chTx .ch0 0x0A#8), .fatalArm], [], rfl, by decide⟩⟩, by decide +kernel, ?_,
      next_exists (by decide +kernel)⟩, ⟨rfl, .inl rfl⟩, by decide +kernel, ?_, next_exists (by decide +kernel)⟩
  · intro r hr
    obtain rfl := List.mem_singleton.mp hr
    intro h
    cases h
  · intro r hr
    cases hr

theorem witness_StepKeepsInvariant : base.wf ∧ ∃ t, step base = .next t := ⟨wf_base, next_exists (by decide +kernel)⟩

/-- One state for each case of `linesShort`. -/
theorem witness_StepKeepsLinesShort :
    (base.wf ∧ base.linesShort ∧ ∃ t, step base = .next t) ∧
    (let s := { base with lf := .all (lineBufOf (.replicate 8 0x41#8) false), main := [.call (.sysFatal .lineTooLong)] }
     s.wf ∧ s.linesShort ∧ ∃ t, step s = .next t) ∧
    (let s := { masked base with lf := .all (lineBufOf (.replicate 8 0x41#8) false), run := .halted .lineTooLong }
     s.wf ∧ s.linesShort ∧ ∃ t, step s = .next t) :=
  ⟨⟨wf_base, .inl (fun c => by cases c <;> decide +kernel), next_exists (by decide +kernel)⟩,
    ⟨wf_of (by decide +kernel), .inr (.inl ⟨rfl, rfl⟩), next_exists (by decide +kernel)⟩,
    wf_of (by decide +kernel), .inr (.inr ⟨rfl, .inl rfl⟩), next_exists (by decide +kernel)⟩

theorem witness_StepKeepsConfiguration : ∃ t, step base = .next t := next_exists (by decide +kernel)

theorem witness_StoppedMainTakesNoStep :
    (let s := { base with run := .resetWait }
     s.run ≠ .running ∧ s.requests = [] ∧ s.env = [] ∧ Instr.chRxi .ch0 0x41#8 ≠ .envReset ∧
       ∃ t, exec (.chRxi .ch0 0x41#8) s = .next t) ∧
    (let s := { base with run := .halted .badPort, env := [.rxByte .ch0 0x41#8] }
     s.run ≠ .running ∧ s.requests = [] ∧ s.env = [.rxByte .ch0 0x41#8] ∧ (∀ e ∈ s.env, e ≠ .reset) ∧
       ∃ t, step s = .next t) ∧
    (let s := { base with run := .resetWait, requests := [.op [0x53#8, 0x00#8]] }
     s.run ≠ .running ∧ (∀ e ∈ s.env, e ≠ .reset) ∧ (∀ r ∈ s.requests, decode r ≠ .ok .envReset) ∧ ∃ t, step s = .next t) := by
  refine ⟨⟨by decide, rfl, rfl, by decide, next_exists (by decide +kernel)⟩,
    ⟨by decide, rfl, rfl, by decide +kernel, next_exists (by decide +kernel)⟩,
    by decide, by decide +kernel, ?_, next_exists (by decide +kernel)⟩
  intro r hr h
  obtain rfl := List.mem_singleton.mp hr
  cases h

theorem witness_WireOutputOnlyGrows :
    let s := { fullTx with txIrqEn := .all true, env := [.txi .ch0, .tick] }
    (∀ e ∈ s.env, e ≠ .reset) ∧ (∀ r ∈ s.requests, decode r ≠ .ok .envReset) ∧ Micro.call .envReset ∉ s.main ∧
      ∃ t, step s = .next t :=
  ⟨by decide +kernel, fun r hr => (by cases hr), fun h => (by cases h), next_exists (by decide +kernel)⟩

theorem witness_TransmitFrame :
    base.atRest ∧ (∃ t, exec (.chTx .ch1 0x41#8) base = .next t) ∧ (masked base).atRest ∧
      (∃ t, exec (.chTx .ch1 0x41#8) (masked base) = .next t) ∧ ∃ t, exec (.chDrain .ch1) base = .next t :=
  ⟨rest_base, next_exists (by decide +kernel), ⟨rfl, rfl, rfl⟩, next_exists (by decide +kernel), next_exists (by decide +kernel)⟩

/-- A command that responds, one that changes a mask, one that forwards, one that is fatal. -/
theorem witness_CommandFrame :
    base.atRest ∧ ∀ i ∈ [Instr.cmdH [0x41#8, 0x33#8], .cmdM [0x43#8, 0x32#8], .cmdFwd3 [0x41#8], .cmdL []],
      i.lineText ≠ [] ∧ i ≠ .cmdZ ∧ ∃ t, exec i base = .next t := by
  refine ⟨rest_base, ?_⟩
  simp only [List.forall_mem_cons]
  exact ⟨⟨by decide, by decide, next_exists (by decide +kernel)⟩, ⟨by decide, by decide, next_exists (by decide +kernel)⟩,
    ⟨by decide, by decide, next_exists (by decide +kernel)⟩, ⟨by decide, by decide, next_exists (by decide +kernel)⟩,
    fun i hi => by cases hi⟩

end Sys2Proof.Tests
end

section
/-!
SUPPORT. What an access of `MAIN` and an event leave, said once: every access but the framer's and the reset keeps
`State.Keeps`, and an event besides that touches nothing `MAIN` owns.
-/
namespace Sys2Proof.Machine

/-! ### Outcomes -/

/-- Whatever next state `r` answers meets `P`. -/
def Res.All (r : Res) (P : State → Prop) : Prop := ∀ t, r = .next t → P t

section
variable {P Q : State → Prop} {r : Res}

theorem Res.all_next {s : State} (h : P s) : Res.All (.next s) P := fun _ ht => Host.Outcome.next.inj ht ▸ h

theorem Res.all_fault (e : Fault) : Res.All (.fault e) P := fun _ ht => nomatch ht

theorem Res.all_refused (e : Refusal) : Res.All (.refused e) P := fun _ ht => nomatch ht

theorem Res.all_ite {c : Prop} [Decidable c] {a b : Res} (ha : c → Res.All a P) (hb : ¬c → Res.All b P) :
    Res.All (if c then a else b) P := by
  split
  · exact ha ‹_›
  · exact hb ‹_›

theorem Res.all_andThen {f : State → Res} (h : Res.All r fun s => Res.All (f s) P) : Res.All (andThen r f) P := by
  intro t ht
  obtain ⟨s, hs, hf⟩ := andThen_eq_next.mp ht
  exact h s hs t hf

theorem Res.All.imp (h : Res.All r P) (hPQ : ∀ t, P t → Q t) : Res.All r Q := fun t ht => hPQ t (h t ht)

end

/-! ### What an access keeps -/

/-- What every access of `MAIN` keeps, but for the resets and the framer's updates of a line buffer: parameters, schedule,
requests and line buffers stay, rings stay well formed, the per-port lists keep their lengths, no handler is left active,
bytes on the wire stay, and `MAIN` comes to no reset of its own. -/
structure State.Keeps (s t : State) : Prop where
  cfg : t.cfg = s.cfg
  rings : ∀ q, Ring.wf (s.capacity q) (s.ring q) → Ring.wf (s.capacity q) (t.ring q)
  lf : t.lf = s.lf
  mask : t.mask.length = s.mask.length
  last : t.last.length = s.last.length
  pins : t.pinIn.length = s.pinIn.length
  isr : s.isrActive = false → t.isrActive = false
  env : t.env = s.env
  requests : t.requests = s.requests
  wire : ∀ c, s.wireOut.get c <+: t.wireOut.get c
  main : Micro.call .envReset ∈ t.main → Micro.call .envReset ∈ s.main

namespace State.Keeps
variable {s t u : State}

theorem trans (h : s.Keeps t) (g : t.Keeps u) : s.Keeps u where
  cfg := g.cfg.trans h.cfg
  rings q hq := by
    have hc : t.capacity q = s.capacity q := by rw [State.capacity, h.cfg]
    exact hc ▸ g.rings q (hc ▸ h.rings q hq)
  lf := g.lf.trans h.lf
  mask := g.mask.trans h.mask
  last := g.last.trans h.last
  pins := g.pins.trans h.pins
  isr := g.isr ∘ h.isr
  env := g.env.trans h.env
  requests := g.requests.trans h.requests
  wire c := (h.wire c).trans (g.wire c)
  main := h.main ∘ g.main

/-- The fields not named here may take any value. -/
theorem same (h : s.Keeps t) (cfg : u.cfg = t.cfg := by rfl) (rx : u.rx = t.rx := by rfl) (tx : u.tx = t.tx := by rfl)
    (lf : u.lf = t.lf := by rfl) (mask : u.mask.length = t.mask.length := by rfl)
    (last : u.last.length = t.last.length := by rfl) (pins : u.pinIn.length = t.pinIn.length := by rfl)
    (isr : u.isrActive = t.isrActive := by rfl) (env : u.env = t.env := by rfl)
    (requests : u.requests = t.requests := by rfl) (wire : u.wireOut = t.wireOut := by rfl)
    (main : u.main = t.main := by rfl) : s.Keeps u := by
  have hring : ∀ q, u.ring q = t.ring q := fun q => by simp only [State.ring, rx, tx]
  exact h.trans ⟨cfg, fun q hq => hring q ▸ hq, lf, mask, last, pins, fun hi => isr.trans hi, env, requests,
    fun c => by rw [wire], fun hm => main ▸ hm⟩

theorem refl : s.Keeps s :=
  ⟨rfl, fun _ h => h, rfl, rfl, rfl, rfl, fun h => h, rfl, rfl, fun _ => List.prefix_rfl, fun h => h⟩

theorem setRing (h : s.Keeps t) {q : Queue} {r : Ring}
    (hr : Ring.wf (t.capacity q) (t.ring q) → Ring.wf (t.capacity q) r) : s.Keeps (t.setRing q r) := by
  refine h.trans ⟨rfl, fun p hp => ?_, rfl, rfl, rfl, rfl, fun h => h, rfl, rfl, fun _ => List.prefix_rfl, fun h => h⟩
  by_cases hpq : p = q
  · subst hpq
    rw [State.ring_setRing]
    exact hr hp
  · rwa [State.ring_setRing_ne t r hpq]

/-- An index register is written with a reduced index. -/
theorem setRd (h : s.Keeps t) {q : Queue} {v : Nat} (hv : 0 < t.capacity q → v < t.capacity q) :
    s.Keeps (t.setRd q v) :=
  h.setRing fun ⟨hrd, hwr, hstore⟩ => ⟨hv (Nat.zero_lt_of_lt hrd), hwr, hstore⟩

theorem setWr (h : s.Keeps t) {q : Queue} {v : Nat} (hv : 0 < t.capacity q → v < t.capacity q) :
    s.Keeps (t.setWr q v) :=
  h.setRing fun ⟨hrd, _, hstore⟩ => ⟨hrd, hv (Nat.zero_lt_of_lt hrd), hstore⟩

theorem writeSlot {q : Queue} {i : Nat} {b : Byte} (h : writeSlot q i b s = .next t) : s.Keeps t := by
  obtain ⟨hi, rfl⟩ := writeSlot_next h
  exact refl.setRing fun ⟨hrd, hwr, hwf, hbound⟩ =>
    ⟨hrd, hwr, Memory.wf_write i b hwf, Memory.bound_write b hi hbound⟩

theorem wire_next {c : Channel} {b : Byte} (h : Machine.wire c b s = .next t) : s.Keeps t := by
  obtain ⟨_, rfl⟩ := Machine.wire_next h
  refine { (refl : s.Keeps s) with wire := fun d => ?_ }
  rw [Four.get_set]
  split
  · subst d
    exact List.prefix_append _ _
  · exact List.prefix_rfl

theorem setMain (h : s.Keeps t) {ms : List Micro} (hms : Micro.call .envReset ∉ ms := by simp) :
    s.Keeps (t.setMain ms) :=
  h.trans { (refl : t.Keeps t) with main := fun hm => absurd hm hms }

theorem push (h : s.Keeps t) {ms : List Micro} (hms : Micro.call .envReset ∉ ms := by simp) : s.Keeps (t.push ms) :=
  h.trans { (refl : t.Keeps t) with main := fun hm => (List.mem_append.mp hm).resolve_left hms }

end State.Keeps

/-! ### Events and handlers -/

/-- What an event or a handler leaves: what every access keeps, and all that `MAIN` owns (20_memory R72). -/
structure State.AfterEvent (s t : State) : Prop where
  keeps : s.Keeps t
  owned : t.sameMain s

theorem State.Keeps.event {s t : State} (h : s.Keeps t) (owned : t.sameMain s := by constructor <;> rfl) :
    s.AfterEvent t := ⟨h, owned⟩

theorem pushAtomic_event (q : Queue) (b : Byte) (s : State) : Res.All (pushAtomic q b s) s.AfterEvent := by
  refine Res.all_ite (fun _ => Res.all_next (State.Keeps.refl.same.event)) fun _ => Res.all_andThen fun t ht => ?_
  have hk := State.Keeps.writeSlot ht
  obtain ⟨_, rfl⟩ := writeSlot_next ht
  exact Res.all_next (((hk.setWr fun hn => nextIndex_lt _ hn).same).event)

theorem pushDropOldest_event (q : Queue) (b : Byte) (s : State) : Res.All (pushDropOldest q b s) s.AfterEvent := by
  intro t ht
  obtain ⟨hi, rfl⟩ := pushDropOldest_next ht
  refine (State.Keeps.refl.setRing fun ⟨hrd, _, hwf, hbound⟩ => ?_).event
  have hnext : ∀ i, nextIndex (s.capacity q) i < s.capacity q := fun i => nextIndex_lt i (Nat.zero_lt_of_lt hi)
  refine ⟨?_, hnext _, Memory.wf_write _ b hwf, Memory.bound_write b hi hbound⟩
  show (if s.isFull q then _ else _) < _
  split
  · exact hnext _
  · exact hrd

theorem popAtomic_event {q : Queue} {s t : State} {r : Option Byte} (h : popAtomic q s = .ok (r, t)) :
    s.AfterEvent t := by
  rcases popAtomic_ok h with ⟨_, rfl, _⟩ | ⟨b, _, _, _, rfl⟩
  · exact State.Keeps.refl.event
  · exact (State.Keeps.refl.setRd fun hn => nextIndex_lt _ hn).event

/-- A handler that may start runs with no handler active, and leaves none active. -/
theorem asHandler_event {body : State → Res} {s : State} (h : ∀ u, Res.All (body u) u.AfterEvent) :
    Res.All (asHandler body s) s.AfterEvent := by
  intro t ht
  obtain ⟨u, hu, rfl⟩ := asHandler_next ht
  obtain ⟨k, o⟩ := h _ u hu
  have hin : State.sameMain { s with isrActive := true } s := by constructor <;> rfl
  have hout : State.sameMain { u with isrActive := false } u := by constructor <;> rfl
  exact ⟨⟨k.cfg, k.rings, k.lf, k.mask, k.last, k.pins, fun _ => rfl, k.env, k.requests, k.wire, k.main⟩,
    (hin.trans o).trans hout⟩

theorem txiBody_event (c : Channel) (s : State) : Res.All (txiBody c s) s.AfterEvent := by
  unfold txiBody
  split
  · rename_i x t ht
    intro u hu
    obtain ⟨k, o⟩ := popAtomic_event ht
    obtain ⟨k', o'⟩ : t.AfterEvent u := (State.Keeps.wire_next hu).event (by
      obtain ⟨_, rfl⟩ := wire_next hu
      constructor <;> rfl)
    exact ⟨k.trans k', o.trans o'⟩
  · rename_i t ht
    obtain ⟨k, o⟩ := popAtomic_event ht
    exact Res.all_next ⟨k.same, o.trans (by constructor <;> rfl)⟩
  · exact Res.all_fault _

theorem rxiHandler_event (c : Channel) (b : Byte) (s : State) : Res.All (rxiHandler c b s) s.AfterEvent :=
  Res.all_ite (fun _ => asHandler_event (pushDropOldest_event (.rx c) b)) fun _ => Res.all_next State.Keeps.refl.event

theorem txiHandler_event (c : Channel) (s : State) : Res.All (txiHandler c s) s.AfterEvent :=
  Res.all_ite (fun _ => asHandler_event (txiBody_event c)) fun _ => Res.all_next State.Keeps.refl.event

theorem tickHandler_event (s : State) : Res.All (tickHandler s) s.AfterEvent :=
  Res.all_ite (fun _ => asHandler_event fun _ => Res.all_next State.Keeps.refl.same.event)
    fun _ => Res.all_next State.Keeps.refl.event

theorem txRdyEvent_event (c : Channel) (s : State) : s.AfterEvent (txRdyEvent c s) := by
  unfold txRdyEvent
  split
  · exact State.Keeps.refl.event
  · exact State.Keeps.refl.same.event

/-- Everything a turn of the schedule can do. -/
theorem deliver_event {e : Turn} (he : e ≠ .reset) (s : State) : Res.All (deliver e s) s.AfterEvent := by
  cases e with
  | main => exact Res.all_next State.Keeps.refl.event
  | rxByte c b => exact rxiHandler_event c b s
  | txRdy c => exact Res.all_next (txRdyEvent_event c s)
  | txi c => exact txiHandler_event c s
  | tick => exact tickHandler_event s
  | pin p v => exact Res.all_next (State.Keeps.refl.same (pins := List.length_set)).event
  | reset => exact absurd rfl he

/-! ### Accesses of MAIN -/

@[simp] theorem envReset_notMem_emitAll (c : Channel) (bs : List Byte) : Micro.call .envReset ∉ emitAll c bs := by
  simp [emitAll]

@[simp] theorem envReset_notMem_notifyChanged (letter v chg : Byte) :
    Micro.call .envReset ∉ notifyChanged letter v chg := by
  simp only [notifyChanged, List.mem_flatMap, not_exists, not_and]
  intro i _
  split <;> simp [notify]

/-- No command line asks for a reset. -/
theorem decodeLine_ne_envReset {bytes : List Byte} {i : Instr} (h : decodeLine bytes = .ok i) : i ≠ .envReset := by
  rintro rfl
  unfold decodeLine at h
  split at h
  · cases h
  · repeat' split at h
    all_goals cases h

/-- The common part of the `G3` commands: an operand fault is raised, or the command acts. -/
theorem withPort_all {args : List Byte} {s : State} {act : Byte → Byte → Pin → Nat → Res} {P : State → Prop}
    (hfatal : ∀ kind, P (raiseFatal kind s)) (hact : ∀ port pin i p, Res.All (act port pin i p) P) :
    Res.All (withPort args s act) P := by
  unfold withPort
  split
  · exact Res.all_next (hfatal _)
  · split
    · exact Res.all_next (hfatal _)
    · exact hact _ _ _ _

section
variable {s t : State}

theorem raiseFatal_keeps (kind : FatalKind) (s : State) : s.Keeps (raiseFatal kind s) := .setMain .refl

theorem drawAdc_keeps (s : State) : s.Keeps (drawAdc s).2 := by
  unfold drawAdc
  split <;> exact .same .refl

theorem watchPin_keeps (p : Nat) (i : Pin) (s : State) : s.Keeps (watchPin p i s) :=
  State.Keeps.refl.same (mask := List.length_set)

theorem unwatchPin_keeps (p : Nat) (i : Pin) (s : State) : s.Keeps (unwatchPin p i s) :=
  State.Keeps.refl.same (mask := List.length_set)

theorem forward_keeps (k : Channel) (digit : Byte) (payload : List Byte) (s : State) :
    Res.All (forward k digit payload s) s.Keeps :=
  Res.all_ite (fun _ => Res.all_next (raiseFatal_keeps _ s)) fun _ => Res.all_next (.push .refl)

theorem withPort_keeps {args : List Byte} {act : Byte → Byte → Pin → Nat → Res}
    (hact : ∀ port pin i p, Res.All (act port pin i p) s.Keeps) : Res.All (withPort args s act) s.Keeps :=
  withPort_all (raiseFatal_keeps · s) hact

theorem State.Keeps.respond (h : s.Keeps t) {op port pin : Byte} : Res.All (respond op port pin t) s.Keeps :=
  Res.all_next h.push

theorem State.Keeps.respondValue (h : s.Keeps t) {op port pin : Byte} {v : Word16} :
    Res.All (respondValue op port pin v t) s.Keeps := Res.all_next h.push

theorem startCdDispatch_keeps (s : State) : Res.All (startCdDispatch s) s.Keeps := by
  refine Res.all_ite (fun _ => ?_) fun _ => Res.all_refused _
  split
  · exact Res.all_fault _
  · split
    · rename_i i hi
      exact Res.all_next (.push .refl (by simpa using (decodeLine_ne_envReset hi).symm))
    · exact Res.all_refused _

/-- The first line of every instruction but `LF.RESET` and the reset. -/
theorem callInstr_keeps {i : Instr} (hlf : ∀ c, i ≠ .lfReset c) (hreset : i ≠ .envReset) (s : State) :
    Res.All (callInstr i s) s.Keeps := by
  cases i with
  | rbPush | rbPop | rbEmpty | rbFull => exact Res.all_next (.push .refl)
  | rbPushd q b => exact (pushDropOldest_event q b s).imp fun _ => State.AfterEvent.keeps
  | chRxi c b | envRxbyte c b => exact (rxiHandler_event c b s).imp fun _ => State.AfterEvent.keeps
  | chTxi c => exact (txiHandler_event c s).imp fun _ => State.AfterEvent.keeps
  | clkTick => exact (tickHandler_event s).imp fun _ => State.AfterEvent.keeps
  | envTxrdy c => exact Res.all_next (txRdyEvent_event c s).keeps
  | chTx c b => exact Res.all_ite (fun _ => Res.all_next (.push .refl)) fun _ => Res.all_next (.push .refl)
  | chDrain c => exact Res.all_next (.push (.same .refl))
  | lfAppend c => exact Res.all_ite (fun _ => Res.all_next .refl) fun _ => Res.all_next (.push .refl)
  | lfReset c => exact absurd rfl (hlf c)
  | pmPoll | schA | schB => exact Res.all_next (.push .refl)
  | pmWatch p i => exact Res.all_ite (fun _ => Res.all_next (watchPin_keeps p i s)) fun _ => Res.all_refused _
  | pmUnwatch p i => exact Res.all_ite (fun _ => Res.all_next (unwatchPin_keeps p i s)) fun _ => Res.all_refused _
  | cdDispatch => exact startCdDispatch_keeps s
  | schC => exact Res.all_ite (fun _ => Res.all_next (.push (.same .refl))) fun _ => Res.all_next .refl
  | sysStart => exact Res.all_next (.push (.same .refl))
  | sysFatal kind => exact Res.all_next (.setMain (.same .refl))
  | sysCritEnter | sysCritExit => exact Res.all_next (.same .refl)
  | envReset => exact absurd rfl hreset
  | cmdZ => exact Res.all_next (.setMain (.same .refl))
  | cmdFwd1 payload | cmdFwd2 payload | cmdFwd3 payload => exact forward_keeps _ _ payload s
  | cmdH | cmdL | cmdU | cmdD => exact withPort_keeps fun _ _ _ _ => .respond (.same .refl)
  | cmdI => exact withPort_keeps fun _ _ _ _ => .respondValue (.same .refl)
  | cmdA =>
    exact withPort_keeps fun _ _ _ _ => Res.all_ite (fun _ => .respondValue (.same (drawAdc_keeps s)))
      fun _ => Res.all_next (raiseFatal_keeps _ s)
  | cmdM => exact withPort_keeps fun _ _ i p => .respond (watchPin_keeps p i s)
  | cmdN => exact withPort_keeps fun _ _ i p => .respond (unwatchPin_keeps p i s)
  | cmdUnk op args =>
    show Res.All (startCmdUnk op args s) _
    unfold startCmdUnk
    split
    · exact Res.all_next (raiseFatal_keeps _ s)
    · exact .respond .refl

/-- Every access but the framer's, `LF.RESET` and the reset. -/
theorem access_keeps {m : Micro} (happend : ∀ c, m ≠ .appendByte c) (hlf : ∀ c, m ≠ .call (.lfReset c))
    (hreset : m ≠ .call .envReset) (s : State) : Res.All (access m s) s.Keeps := by
  cases m with
  | call i => exact callInstr_keeps (fun c h => hlf c (h ▸ rfl)) (fun h => hreset (h ▸ rfl)) s
  | emptyWr | fullRd | txEnable | notifyStamp | advance => exact Res.all_next (.same .refl)
  | pushRd => exact Res.all_ite (fun _ => Res.all_next (.same .refl)) fun _ => Res.all_next (.push .refl)
  | pushStore => exact Res.all_andThen fun t ht => Res.all_next (.push (.writeSlot ht))
  | pushWr => exact Res.all_next (.same (.setWr .refl (nextIndex_lt _)))
  | popWr => exact Res.all_ite (fun _ => Res.all_next (.same .refl)) fun _ => Res.all_next (.push .refl)
  | popStore q r =>
    show Res.All (atPopStore q r s) _
    unfold atPopStore
    split
    · exact Res.all_next (.push .refl)
    · exact Res.all_fault _
  | popRd => exact Res.all_next (.same (.setRd .refl (nextIndex_lt _)))
  | txWait | drainLoop => exact Res.all_next (.push .refl)
  | txWaited | txMakeRoom | drainWait =>
    exact Res.all_ite (fun _ => Res.all_next (.push .refl)) fun _ => Res.all_next (.push .refl)
  | drainTest => exact Res.all_ite (fun _ => Res.all_next .refl) fun _ => Res.all_next (.push .refl)
  | drainSend c =>
    show Res.All (atDrainSend c s) _
    unfold atDrainSend
    split
    · exact Res.all_andThen fun t ht => Res.all_next (.push (.wire_next ht))
    · exact Res.all_next (.push .refl)
  | appendByte c => exact absurd rfl (happend c)
  | pollPort => exact Res.all_ite (fun _ => Res.all_next (.push (.same .refl))) fun _ => Res.all_next .refl
  | lastStore => exact Res.all_next (.same .refl (last := List.length_set))
  | schADispatch => exact Res.all_ite (fun _ => Res.all_next (.push .refl)) fun _ => Res.all_next .refl
  | schBForward k =>
    refine Res.all_ite (fun _ => ?_) fun _ => Res.all_next .refl
    split
    · exact Res.all_fault _
    · exact Res.all_next (.push .refl)
  | fatalArm =>
    show Res.All (atFatalArm s) _
    unfold atFatalArm
    split <;> exact Res.all_next (.same .refl)
  | fatalHalt => exact Res.all_next (.setMain (.same .refl))

end

end Sys2Proof.Machine
end

section
/-!
SUPPORT. What a step can do: the framer's updates of a line buffer, an access, an instruction; and the induction over a
step, packaged once as `StepInvariant`.
-/
namespace Sys2Proof.Machine

/-! ### The framer's updates of a line buffer -/

/-- A content byte stored and counted (42_line_framer R172 a4, a5). -/
def LineBuf.stored (l : LineBuf) (b : Byte) : LineBuf :=
  { l with line := Memory.write l.line l.len b, len := l.len + 1 }

/-- Everything `MAIN` can do to a line buffer (42_line_framer R172 to R174). -/
inductive State.LineStep (s : State) : State → Prop
  | reset (c : Channel) : LineStep s (s.setLf c { s.lf.get c with len := 0, ready := false })
  | complete (c : Channel) (h : (s.lf.get c).len ≠ 0) : LineStep s (s.setLf c { s.lf.get c with ready := true })
  | store (c : Channel) (b : Byte) (h : (s.lf.get c).len + 1 < s.cfg.lineCap) :
    LineStep s ((s.setLf c ((s.lf.get c).stored b)).push [.call (.lfAppend c)])
  | tooLong (c : Channel) (b : Byte) (h : (s.lf.get c).len + 1 = s.cfg.lineCap) :
    LineStep s (raiseFatal .lineTooLong (s.setLf c ((s.lf.get c).stored b)))

theorem storeContent_lineStep (c : Channel) (b : Byte) (s : State) : Res.All (storeContent c b s) s.LineStep := by
  unfold storeContent
  split
  · exact Res.all_fault _
  · rename_i m hm
    obtain ⟨hi, rfl⟩ := memWrite_ok.mp hm
    refine Res.all_ite (fun h => Res.all_next (.tooLong c b h)) fun h => Res.all_next (.store c b ?_)
    omega

theorem atAppendByte_cases (c : Channel) (s : State) :
    Res.All (atAppendByte c s) fun t => s.Keeps t ∨ s.LineStep t := by
  unfold atAppendByte
  split
  · refine Res.all_ite (fun _ => ?_) fun _ => ?_
    · exact Res.all_ite (fun _ => Res.all_next (.inl (.push .refl))) fun h => Res.all_next (.inr (.complete c h))
    · exact Res.all_ite (fun _ => Res.all_next (.inl (.push .refl)))
        fun _ => (storeContent_lineStep c _ s).imp fun _ => .inr
  · exact Res.all_next (.inl .refl)

/-- Everything an access of `MAIN` can do. -/
theorem access_cases (m : Micro) (s : State) :
    Res.All (access m s) fun t => s.Keeps t ∨ s.LineStep t ∨ (m = .call .envReset ∧ t = resetEvent s) := by
  by_cases happend : ∃ c, m = .appendByte c
  · obtain ⟨c, rfl⟩ := happend
    exact (atAppendByte_cases c s).imp fun _ h => h.imp_right .inl
  by_cases hlf : ∃ c, m = .call (.lfReset c)
  · obtain ⟨c, rfl⟩ := hlf
    exact Res.all_next (.inr (.inl (.reset c)))
  by_cases hreset : m = .call .envReset
  · subst hreset
    exact Res.all_next (.inr (.inr ⟨rfl, rfl⟩))
  · exact (access_keeps (fun c h => happend ⟨c, h⟩) (fun c h => hlf ⟨c, h⟩) hreset s).imp fun _ => .inl

/-! ### Steps -/

/-- Everything an instruction can do: run as an operation of `MAIN`, reset, or be an event. -/
theorem exec_cases {i : Instr} {s t : State} (h : exec i s = .next t) :
    (i ≠ .envReset ∧ byMain i s = .next t) ∨ (i = .envReset ∧ t = resetEvent s) ∨ s.AfterEvent t := by
  cases i with
  | rbPush q b =>
    obtain ⟨c, _ | _⟩ := q
    · exact .inr (.inr (pushAtomic_event _ b s t h))
    · exact .inl ⟨nofun, h⟩
  | rbPop q =>
    obtain ⟨c, _ | _⟩ := q
    · exact .inl ⟨nofun, h⟩
    · change (if s.ie then _ else _) = _ at h
      split at h
      · split at h
        · rename_i hp
          obtain ⟨k, o⟩ := popAtomic_event hp
          exact .inr (.inr (Host.Outcome.next.inj h ▸ ⟨k.same, o.trans (by constructor <;> rfl)⟩))
        · cases h
      · exact .inl ⟨nofun, h⟩
  | rbPushd q b => exact .inr (.inr (pushDropOldest_event q b s t h))
  | chRxi c b | envRxbyte c b => exact .inr (.inr (rxiHandler_event c b s t h))
  | chTxi c => exact .inr (.inr (txiHandler_event c s t h))
  | clkTick => exact .inr (.inr (tickHandler_event s t h))
  | envTxrdy c => exact .inr (.inr (Host.Outcome.next.inj h ▸ txRdyEvent_event c s))
  | envReset => exact .inr (.inl ⟨rfl, (Host.Outcome.next.inj h).symm⟩)
  | rbEmpty | rbFull | chTx | chDrain | lfAppend | lfReset | pmPoll | pmWatch | pmUnwatch | cdDispatch | schA | schB
  | schC | sysStart | sysFatal | sysCritEnter | sysCritExit | cmdZ | cmdFwd1 | cmdFwd2 | cmdFwd3 | cmdH | cmdL | cmdU
  | cmdD | cmdI | cmdA | cmdM | cmdN | cmdUnk => exact .inl ⟨nofun, h⟩

/-- `u` is `s` with requests and turns fetched from the front, and operations other than a reset queued behind what
`MAIN` was doing: where an access, an event or a reset takes place. -/
def State.Readied (s u : State) : Prop :=
  ∃ rs es ms, rs <:+ s.requests ∧ es <:+ s.env ∧ Micro.call .envReset ∉ ms ∧
    u = { s with requests := rs, env := es, main := s.main ++ ms }

theorem State.Readied.setEnv {s : State} {es : List Turn} (h : es <:+ s.env) : s.Readied (s.setEnv es) :=
  ⟨s.requests, es, [], List.suffix_rfl, h, List.not_mem_nil, by simp [State.setEnv]⟩

theorem State.Readied.queue {s : State} {ms : List Micro} (h : Micro.call .envReset ∉ ms) :
    s.Readied (s.setMain (s.main ++ ms)) :=
  ⟨s.requests, s.env, ms, List.suffix_rfl, List.suffix_rfl, h, rfl⟩

theorem State.Readied.fetch {s : State} {rs : List Request} (h : rs <:+ s.requests) :
    s.Readied { s with requests := rs } :=
  ⟨rs, s.env, [], h, List.suffix_rfl, List.not_mem_nil, by simp⟩

/-- A reset is scheduled or requested. -/
def State.resetAhead (s : State) : Prop := .reset ∈ s.env ∨ ∃ r ∈ s.requests, decode r = .ok .envReset

/-- `P` is kept by all that steps are made of: getting ready, resets that are scheduled or requested, events, and accesses
of a running `MAIN`. -/
structure StepInvariant (P : State → Prop) : Prop where
  readied : ∀ {s u}, P s → s.Readied u → P u
  reset : ∀ {s u}, P s → s.resetAhead → s.Readied u → P (resetEvent u)
  event : ∀ {s t}, P s → s.AfterEvent t → P t
  access : ∀ {s m rest}, P s → s.run = .running → s.main = m :: rest → Res.All (access m (s.setMain rest)) P

namespace StepInvariant
variable {P : State → Prop} (hP : StepInvariant P) {s t : State}
include hP

theorem mainAccess (hs : P s) (hr : s.run = .running) : Res.All (mainAccess s) P := by
  unfold Machine.mainAccess
  split
  · exact Res.all_next hs
  · exact hP.access hs hr ‹_›

theorem deliver {e : Turn} {rest : List Turn} (hs : P s) (he : s.env = e :: rest) :
    Res.All (deliver e (s.setEnv rest)) P := by
  have hready : s.Readied (s.setEnv rest) := .setEnv (he ▸ List.suffix_cons e rest)
  by_cases hreset : e = .reset
  · subst hreset
    exact Res.all_next (hP.reset hs (.inl (he ▸ List.mem_cons_self)) hready)
  · exact (deliver_event hreset _).imp fun _ => hP.event (hP.readied hs hready)

theorem turn (hs : P s) (hr : s.run = .running) (h : turn s = .next t) : P t := by
  rcases turn_next h with ⟨_, h⟩ | ⟨rest, he, h⟩ | ⟨e, rest, he, _, h⟩
  · exact hP.mainAccess hs hr t h
  · exact hP.mainAccess (hP.readied hs (.setEnv (es := rest) (he ▸ List.suffix_cons _ rest))) hr t h
  · exact hP.deliver hs he t h

theorem runTurns (hs : P s) {n : Nat} (h : runTurns n s = .next t) : P t :=
  runTurns_keeps (fun s _ hs hset ht => hP.turn hs (by simp_all [State.settled, State.idle]) ht) n hs h

theorem exec {i : Instr} {r : Request} {rest : List Request} (hs : P s) (hreq : s.requests = r :: rest)
    (hi : decode r = .ok i) (h : exec i { s with requests := rest } = .next t) : P t := by
  have hready : s.Readied { s with requests := rest } := .fetch (hreq ▸ List.suffix_cons r rest)
  rcases exec_cases h with ⟨hne, h⟩ | ⟨rfl, rfl⟩ | h
  · rcases byMain_next h with ⟨_, rfl⟩ | ⟨_, h⟩
    · exact hP.readied hs hready
    · exact hP.runTurns (hP.readied (hP.readied hs hready) (.queue (by simpa using hne.symm))) h
  · exact hP.reset hs (.inr ⟨r, hreq ▸ List.mem_cons_self, hi⟩) hready
  · exact hP.event (hP.readied hs hready) h

theorem mainLoop (hs : P s) (h : mainLoop s = .next t) : P t := by
  unfold Machine.mainLoop at h
  split at h
  · exact hP.runTurns hs h
  · rename_i hmain
    have hqueue : ∀ ms, Micro.call .envReset ∉ ms → P (s.setMain ms) := fun ms hms => by
      simpa [hmain] using hP.readied hs (.queue hms)
    split at h
    · exact hP.runTurns (hqueue _ (by simp)) h
    · exact hP.runTurns (hqueue _ (by cases s.schedPhase <;> simp [phaseInstr])) h

theorem envStep (hs : P s) : Res.All (envStep s) P := by
  unfold Machine.envStep
  split
  · exact hP.deliver hs ‹_›
  · exact Res.all_next hs

/-- What all the parts of a step keep, a step keeps. -/
theorem step (hs : P s) (h : step s = .next t) : P t := by
  rcases step_next h with ⟨r, rest, i, hreq, hi, h⟩ | ⟨_, _, h⟩ | ⟨_, _, h⟩
  · exact hP.exec hs hreq hi h
  · exact hP.mainLoop hs h
  · exact hP.envStep hs t h

end StepInvariant

end Sys2Proof.Machine
end

section
/-!
The obligations of 10_state: the reset values, the invariant of the state, lines short of `L`, the wire, a stopped `MAIN`.
-/
namespace Sys2Proof.Machine

/-! ### The reset -/

@[simp] theorem initial_ring (cfg : Config) (txReady : Four Bool) (pinIn : List Byte) (q : Queue) :
    (State.initial cfg txReady pinIn).ring q = .reset := by
  obtain ⟨c, _ | _⟩ := q <;> exact Four.get_all _ c

@[simp] theorem initial_lf (cfg : Config) (txReady : Four Bool) (pinIn : List Byte) (c : Channel) :
    (State.initial cfg txReady pinIn).lf.get c = .reset := Four.get_all _ c

@[simp] theorem resetEvent_ring (s : State) (q : Queue) : (resetEvent s).ring q = .reset := by
  obtain ⟨c, _ | _⟩ := q <;> exact Four.get_all _ c

@[simp] theorem resetEvent_lf (s : State) (c : Channel) : (resetEvent s).lf.get c = .reset := Four.get_all _ c

theorem Config.capacity_ge {cfg : Config} (h : cfg.wf) (q : Queue) : 2 ≤ cfg.capacity q := by
  obtain ⟨⟨h0, h1, h2, h3⟩, ⟨g0, g1, g2, g3⟩, _⟩ := h
  obtain ⟨c, _ | _⟩ := q <;> cases c
  exacts [h0.1, h1.1, h2.1, h3.1, g0.1, g1.1, g2.1, g3.1]

theorem Config.lineCap_pos {cfg : Config} (h : cfg.wf) : 0 < cfg.lineCap := by
  obtain ⟨_, _, hline, _⟩ := h
  omega

theorem Config.last0_length {cfg : Config} (h : cfg.wf) : cfg.last0.length = cfg.numPorts := by
  obtain ⟨_, _, _, _, _, _, _, _, hlast, _⟩ := h
  exact hlast

/-- The reset values of 10_state R46 under admissible parameters. -/
theorem initial_wf {cfg : Config} {txReady : Four Bool} {pinIn : List Byte} (hcfg : cfg.wf)
    (hpins : pinIn.length = cfg.numPorts) : (State.initial cfg txReady pinIn).wf where
  cfg := hcfg
  rings q := by
    have hn : 0 < cfg.capacity q := Nat.lt_of_lt_of_le Nat.two_pos (Config.capacity_ge hcfg q)
    rw [initial_ring]
    exact ⟨hn, hn, List.Pairwise.nil, nofun⟩
  lines c := by
    rw [initial_lf]
    exact ⟨Nat.zero_le _, nofun, List.Pairwise.nil, nofun⟩
  mask := List.length_replicate
  last := Config.last0_length hcfg
  pins := hpins
  isr := rfl

theorem resetEvent_wf {s : State} (h : s.cfg.wf) : (resetEvent s).wf := by
  obtain ⟨hcfg, hrings, hlines, hmask, hlast, hpins, hisr⟩ := initial_wf (txReady := (resetEvent s).txReady)
    (pinIn := (resetEvent s).pinIn) h (by simp [resetEvent, State.initial])
  exact ⟨hcfg, hrings, hlines, hmask, hlast, hpins, hisr⟩

/-! ### The invariant -/

section
variable {s t u : State}

theorem State.wf.keeps (hs : s.wf) (k : s.Keeps t) : t.wf := by
  have hn : t.cfg.numPorts = s.cfg.numPorts := by rw [k.cfg]
  refine ⟨k.cfg ▸ hs.cfg, fun q => ?_, fun c => ?_, ?_, ?_, ?_, k.isr hs.isr⟩
  · rw [State.capacity, k.cfg]
    exact k.rings q (hs.rings q)
  · rw [k.cfg, k.lf]
    exact hs.lines c
  · rw [k.mask, hn, hs.mask]
  · rw [k.last, hn, hs.last]
  · rw [k.pins, hn, hs.pins]

theorem State.wf.setLf (hs : s.wf) {c : Channel} {l : LineBuf} (hl : LineBuf.wf s.cfg.lineCap l) : (s.setLf c l).wf := by
  refine ⟨hs.cfg, hs.rings, fun d => ?_, hs.mask, hs.last, hs.pins, hs.isr⟩
  show LineBuf.wf s.cfg.lineCap ((s.lf.set c l).get d)
  rw [Four.get_set]
  split
  · exact hl
  · exact hs.lines d

theorem LineBuf.wf.stored {n : Nat} {l : LineBuf} (h : LineBuf.wf n l) (hlen : l.len < n) (b : Byte) :
    LineBuf.wf n (l.stored b) :=
  let ⟨_, _, hwf, hbound⟩ := h
  ⟨hlen, fun _ => Nat.succ_le_succ (Nat.zero_le _), Memory.wf_write _ b hwf, Memory.bound_write b hlen hbound⟩

/-- An update by the framer replaces one line buffer by a well-formed one, and keeps what every access keeps. -/
theorem State.LineStep.keeps (h : s.LineStep t) : ∃ c l, (s.setLf c l).Keeps t ∧
    (LineBuf.wf s.cfg.lineCap (s.lf.get c) → LineBuf.wf s.cfg.lineCap l) := by
  cases h with
  | reset c => exact ⟨c, _, .refl, fun ⟨_, _, hwf, hbound⟩ => ⟨Nat.zero_le _, nofun, hwf, hbound⟩⟩
  | complete c h =>
    exact ⟨c, _, .refl, fun ⟨hlen, _, hwf, hbound⟩ => ⟨hlen, fun _ => Nat.pos_of_ne_zero h, hwf, hbound⟩⟩
  | store c b h => exact ⟨c, _, .push .refl, fun hl => LineBuf.wf.stored hl (by omega) b⟩
  | tooLong c b h => exact ⟨c, _, raiseFatal_keeps _ _, fun hl => LineBuf.wf.stored hl (by omega) b⟩

theorem State.wf.readied (hs : s.wf) (h : s.Readied u) : u.wf := by
  obtain ⟨_, _, _, _, _, _, rfl⟩ := h
  exact ⟨hs.cfg, hs.rings, hs.lines, hs.mask, hs.last, hs.pins, hs.isr⟩

theorem State.wf.access (hs : s.wf) (m : Micro) : Res.All (access m s) State.wf := by
  intro t ht
  rcases access_cases m s t ht with k | hline | ⟨_, rfl⟩
  · exact hs.keeps k
  · obtain ⟨c, l, k, hl⟩ := hline.keeps
    exact (hs.setLf (hl (hs.lines c))).keeps k
  · exact resetEvent_wf hs.cfg

theorem State.wf.setMain (hs : s.wf) (ms : List Micro) : (s.setMain ms).wf :=
  ⟨hs.cfg, hs.rings, hs.lines, hs.mask, hs.last, hs.pins, hs.isr⟩

theorem wf_stepInvariant : StepInvariant State.wf where
  readied hs h := hs.readied h
  reset hs _ h := resetEvent_wf (hs.readied h).cfg
  event hs h := hs.keeps h.keeps
  access hs _ _ := (hs.setMain _).access _

/-! ### Lines short of `L` -/

theorem linesShort_of_len_zero (hcfg : s.cfg.wf) (h : ∀ c, (s.lf.get c).len = 0) : s.linesShort :=
  .inl fun c => h c ▸ Config.lineCap_pos hcfg

theorem resetEvent_linesShort (hcfg : s.cfg.wf) : (resetEvent s).linesShort :=
  linesShort_of_len_zero hcfg fun c => by rw [resetEvent_lf]

theorem State.linesShort.event (hs : s.linesShort) (h : s.AfterEvent t) : t.linesShort := by
  obtain ⟨k, o⟩ := h
  unfold State.linesShort State.fatalUnderway at hs ⊢
  rwa [k.cfg, k.lf, o.run, o.main, o.ie]

theorem State.linesShort.readied (hs : s.linesShort) (h : s.Readied u) : u.linesShort := by
  obtain ⟨_, _, ms, _, _, _, rfl⟩ := h
  rcases hs with hshort | ⟨hrun, hhead⟩ | ⟨hie, hhalted | ⟨hrun, pre, post, hmain, hpre⟩⟩
  · exact .inl hshort
  · exact .inr (.inl ⟨hrun, by simp [hhead]⟩)
  · exact .inr (.inr ⟨hie, .inl hhalted⟩)
  · exact .inr (.inr ⟨hie, .inr ⟨hrun, pre, post ++ ms, by simp [hmain], hpre⟩⟩)

/-- The framer's updates leave every line short, but for the append that raises the fatal error (42_line_framer R174). -/
theorem State.LineStep.linesShort (h : s.LineStep t) (hrun : s.run = .running)
    (hs : ∀ c, (s.lf.get c).len < s.cfg.lineCap) : t.linesShort := by
  have hset : ∀ c l, l.len < s.cfg.lineCap → ∀ d, ((s.lf.set c l).get d).len < s.cfg.lineCap := fun c l hl d => by
    rw [Four.get_set]
    split
    · exact hl
    · exact hs d
  cases h with
  | reset c => exact .inl (hset c _ (Nat.zero_lt_of_lt (hs c)))
  | complete c _ => exact .inl (hset c _ (hs c))
  | store c b h => exact .inl (hset c _ h)
  | tooLong c b h => exact .inr (.inl ⟨hrun, rfl⟩)

end

/-! ### The fatal report -/

/-- `t` is `s` after an access of the report on channel `c`: interrupts stay off, and what is queued is report again. -/
structure State.Reported (c : Channel) (s t : State) : Prop where
  masked : t.ie = false
  run : t.run = s.run
  main : ∃ ms, t.main = ms ++ s.main ∧ ∀ m ∈ ms, m.reportOn c = true

section
variable {c : Channel} {s u : State}

theorem State.Reported.same (masked : u.ie = false) (run : u.run = s.run := by rfl) (main : u.main = s.main := by rfl) :
    s.Reported c u := ⟨masked, run, [], main, nofun⟩

theorem State.Reported.push {ms : List Micro} (masked : u.ie = false)
    (hms : ∀ m ∈ ms, m.reportOn c = true := by simp [Micro.reportOn]) (run : u.run = s.run := by rfl)
    (main : u.main = s.main := by rfl) : s.Reported c (u.push ms) :=
  ⟨masked, run, ms, by rw [State.push_main, main], hms⟩

end

section
variable {c : Channel} {s t : State}

theorem callInstr_reportOn {i : Instr} (hm : (Micro.call i).reportOn c = true) (hi : s.ie = false) :
    Res.All (callInstr i s) (s.Reported c) := by
  cases i with
  | chTx d b =>
    obtain rfl := beq_iff_eq.mp hm
    exact Res.all_ite (fun h => absurd h (by simp [hi])) fun _ => Res.all_next (.push hi)
  | chDrain d =>
    obtain rfl := beq_iff_eq.mp hm
    exact Res.all_next (.push rfl (by simp [Micro.reportOn, hi]))
  | rbFull q | rbEmpty q | rbPush q | rbPop q =>
    obtain rfl := beq_iff_eq.mp hm
    exact Res.all_next (.push hi)
  | sysCritExit saved => exact Res.all_next (.same (by simpa [Micro.reportOn] using hm))
  | _ => cases hm

/-- With interrupts off the report calls nothing but itself (60_exceptions R277). -/
theorem access_reportOn {m : Micro} (hm : m.reportOn c = true) (hi : s.ie = false) :
    Res.All (access m s) (s.Reported c) := by
  cases m with
  | call i => exact callInstr_reportOn hm hi
  | emptyWr | fullRd | pushWr | popRd => exact Res.all_next (.same hi)
  | pushRd q | popWr q =>
    obtain rfl := beq_iff_eq.mp hm
    exact Res.all_ite (fun _ => Res.all_next (.same hi)) fun _ => Res.all_next (.push hi)
  | pushStore q b w =>
    obtain rfl := beq_iff_eq.mp hm
    refine Res.all_andThen fun t ht => ?_
    obtain ⟨_, rfl⟩ := writeSlot_next ht
    exact Res.all_next (.push hi)
  | popStore q r =>
    obtain rfl := beq_iff_eq.mp hm
    show Res.All (atPopStore _ r s) _
    unfold atPopStore
    split
    · exact Res.all_next (.push hi)
    · exact Res.all_fault _
  | txMakeRoom d b | drainWait d =>
    obtain rfl := beq_iff_eq.mp hm
    exact Res.all_ite (fun _ => Res.all_next (.push hi)) fun _ => Res.all_next (.push hi)
  | drainLoop d =>
    obtain rfl := beq_iff_eq.mp hm
    exact Res.all_next (.push hi)
  | drainTest d =>
    obtain rfl := beq_iff_eq.mp hm
    exact Res.all_ite (fun _ => Res.all_next (.same hi)) fun _ => Res.all_next (.push hi)
  | drainSend d =>
    obtain rfl := beq_iff_eq.mp hm
    show Res.All (atDrainSend d s) _
    unfold atDrainSend
    split
    · refine Res.all_andThen fun t ht => ?_
      obtain ⟨_, rfl⟩ := wire_next ht
      exact Res.all_next (.push hi)
    · exact Res.all_next (.push hi)
  | fatalArm =>
    show Res.All (atFatalArm s) _
    unfold atFatalArm
    split <;> exact Res.all_next (.same hi)
  | _ => cases hm

theorem reportOn_emitAll (c : Channel) (bs : List Byte) : ∀ m ∈ emitAll c bs, m.reportOn c = true := by
  simp [emitAll, Micro.reportOn]

/-- `SYS.FATAL` leaves interrupts off and the report before the halt (60_exceptions R274). -/
theorem enterFatal_underway {kind : FatalKind} (hrun : s.run = .running) : (enterFatal kind s).fatalUnderway kind := by
  refine ⟨rfl, .inr ⟨hrun, emitAll .ch0 (diagnostic s.cfg kind) ++ [.fatalArm], [], ?_, ?_⟩⟩
  · simp [enterFatal]
  · simpa [or_imp, forall_and, Micro.reportOn] using reportOn_emitAll _ _

/-- An access of the report leaves the report on its way, or halts. -/
theorem State.fatalUnderway.access {kind : FatalKind} {m : Micro} {rest : List Micro} (hs : s.fatalUnderway kind)
    (hrun : s.run = .running) (hmain : s.main = m :: rest) :
    Res.All (access m (s.setMain rest)) (·.fatalUnderway kind) := by
  obtain ⟨hie, hhalted | ⟨_, pre, post, hsplit, hpre⟩⟩ := hs
  · rw [hrun] at hhalted
    cases hhalted
  cases pre with
  | nil =>
    obtain ⟨rfl, rfl⟩ := List.cons.inj (hmain.symm.trans hsplit)
    exact Res.all_next ⟨hie, .inl rfl⟩
  | cons m' pre =>
    obtain ⟨rfl, rfl⟩ := List.cons.inj (hmain.symm.trans hsplit)
    obtain ⟨hm, hpre⟩ := List.forall_mem_cons.mp hpre
    refine (access_reportOn (s := s.setMain (pre ++ .fatalHalt kind :: post)) hm hie).imp fun t ⟨hmasked, hr, ms, ht, hms⟩ => ?_
    refine ⟨hmasked, .inr ⟨hr.trans hrun, ms ++ pre, post, by simp [ht], fun x hx => ?_⟩⟩
    exact (List.mem_append.mp hx).elim (hms x) (hpre x)

theorem State.linesShort.access {m : Micro} {rest : List Micro} (hs : s.linesShort) (hcfg : s.cfg.wf)
    (hrun : s.run = .running) (hmain : s.main = m :: rest) : Res.All (access m (s.setMain rest)) State.linesShort := by
  rcases hs with hshort | ⟨_, hhead⟩ | hfatal
  · intro t ht
    rcases access_cases m _ t ht with k | hline | ⟨_, rfl⟩
    · exact .inl fun c => by
        rw [k.cfg, k.lf]
        exact hshort c
    · exact hline.linesShort hrun hshort
    · exact resetEvent_linesShort hcfg
  · rw [hmain] at hhead
    obtain rfl := Option.some.inj hhead
    exact Res.all_next (.inr (.inr (enterFatal_underway hrun)))
  · exact (hfatal.access hrun hmain).imp fun _ h => .inr (.inr h)

end

theorem linesShort_stepInvariant : StepInvariant fun s => s.wf ∧ s.linesShort where
  readied hs h := ⟨hs.1.readied h, hs.2.readied h⟩
  reset hs ha h := ⟨wf_stepInvariant.reset hs.1 ha h, resetEvent_linesShort (hs.1.readied h).cfg⟩
  event hs h := ⟨hs.1.keeps h.keeps, hs.2.event h⟩
  access hs hrun hmain t ht := ⟨wf_stepInvariant.access hs.1 hrun hmain t ht, hs.2.access hs.1.cfg hrun hmain t ht⟩

/-! ### Bytes on the wire -/

/-- No reset is scheduled, requested or called, and what is on the wire of `c` begins with `w`. -/
def State.wireBegins (c : Channel) (w : List Byte) (s : State) : Prop :=
  ¬ s.resetAhead ∧ Micro.call .envReset ∉ s.main ∧ w <+: s.wireOut.get c

section
variable {c : Channel} {w : List Byte} {s t u : State}

theorem State.wireBegins.keeps (hs : s.wireBegins c w) (k : s.Keeps t) : t.wireBegins c w := by
  obtain ⟨hahead, hmain, hw⟩ := hs
  refine ⟨?_, hmain ∘ k.main, hw.trans (k.wire c)⟩
  unfold State.resetAhead
  rwa [k.env, k.requests]

theorem State.Readied.resetAhead (h : s.Readied u) (hu : u.resetAhead) : s.resetAhead := by
  obtain ⟨_, _, _, hrs, hes, _, rfl⟩ := h
  exact hu.imp (hes.subset ·) fun ⟨r, hr, hd⟩ => ⟨r, hrs.subset hr, hd⟩

theorem State.wireBegins.readied (hs : s.wireBegins c w) (h : s.Readied u) : u.wireBegins c w := by
  obtain ⟨hahead, hmain, hw⟩ := hs
  refine ⟨hahead ∘ h.resetAhead, ?_⟩
  obtain ⟨_, _, _, _, _, hms, rfl⟩ := h
  exact ⟨by simp [hmain, hms], hw⟩

/-- Taken off the front, an access that is not the reset keeps what is on the wire. -/
theorem State.wireBegins.access {m : Micro} {rest : List Micro} (hs : s.wireBegins c w) (hmain : s.main = m :: rest) :
    Res.All (access m (s.setMain rest)) (State.wireBegins c w) := by
  obtain ⟨hahead, hreset, hw⟩ := hs
  rw [hmain, List.mem_cons, not_or] at hreset
  obtain ⟨hm, hrest⟩ := hreset
  have hs' : (s.setMain rest).wireBegins c w := ⟨hahead, hrest, hw⟩
  intro t ht
  rcases access_cases m _ t ht with k | hline | ⟨rfl, _⟩
  · exact hs'.keeps k
  · obtain ⟨d, l, k, _⟩ := hline.keeps
    exact State.wireBegins.keeps (s := (s.setMain rest).setLf d l) hs' k
  · exact absurd rfl hm

theorem wireBegins_stepInvariant (c : Channel) (w : List Byte) : StepInvariant (State.wireBegins c w) where
  readied hs h := hs.readied h
  reset hs ha _ := absurd ha hs.1
  event hs h := hs.keeps h.keeps
  access hs _ hmain := hs.access hmain

end

/-! ### A stopped `MAIN` -/

section
variable {s t : State}

theorem exec_stopped {i : Instr} (hstop : s.run ≠ .running) (hi : i ≠ .envReset) (h : exec i s = .next t) :
    t.sameMain s := by
  rcases exec_cases h with ⟨_, h⟩ | ⟨rfl, _⟩ | h
  · rcases byMain_next h with ⟨_, rfl⟩ | ⟨hrun, _⟩
    · exact .refl _
    · exact absurd hrun hstop
  · exact absurd rfl hi
  · exact h.owned

theorem step_stopped (hstop : s.run ≠ .running) (hreq : s.requests = []) : step s = envStep s := by
  simp only [step, hreq, if_neg hstop]

theorem envStep_sameMain (henv : ∀ e ∈ s.env, e ≠ .reset) : Res.All (envStep s) (·.sameMain s) := by
  unfold envStep
  split
  · rename_i e rest he
    have ho : (s.setEnv rest).sameMain s := by constructor <;> rfl
    exact (deliver_event (henv e (he ▸ List.mem_cons_self)) _).imp fun _ h => ho.trans h.owned
  · exact Res.all_next (.refl s)

end

/-! ### The obligations -/

/-- Settles O54: the invariant is kept by every part of a step. -/
theorem stepKeepsInvariant : Obligations.StepKeepsInvariant := fun _ _ hs h => wf_stepInvariant.step hs h

/-- Settles O55: with the invariant, lines short of `L` (or the fatal error under way) are kept by every part of a step. -/
theorem stepKeepsLinesShort : Obligations.StepKeepsLinesShort :=
  fun _ _ hwf hshort h => (linesShort_stepInvariant.step ⟨hwf, hshort⟩ h).2

/-- Settles O12, from the bounds of the fill count for reduced indices. -/
theorem ringCountInvariant : Obligations.RingCountInvariant := by
  intro s q hs
  have hn := hs.capacity_pos q
  refine ⟨Int.toNat_of_nonneg (Int.emod_nonneg _ (by omega)), Nat.le_sub_one_of_lt (hs.count_lt q), ?_, ?_, rfl⟩
  · rw [← hs.isEmpty_iff, State.isEmpty, beq_iff_eq]
  · rw [← hs.isFull_iff, State.isFull, beq_iff_eq, nextIndex]

/-- Settles O57: an operation of `MAIN` does nothing while it is stopped, and an event touches nothing it owns. -/
theorem stoppedMainTakesNoStep : Obligations.StoppedMainTakesNoStep := by
  intro s hstop
  refine ⟨fun i t hi h => exec_stopped hstop hi h, fun t henv hreqs h => ?_, fun hreq henv => ?_, fun e rest hreq henv => ?_⟩
  · rcases step_next h with ⟨r, rest, i, hreq, hi, h⟩ | ⟨_, hrun, _⟩ | ⟨_, _, h⟩
    · have ho : State.sameMain { s with requests := rest } s := by constructor <;> rfl
      have hne : i ≠ .envReset := fun hr => hreqs r (hreq ▸ List.mem_cons_self) (hr ▸ hi)
      exact ho.trans (exec_stopped hstop hne h)
    · exact absurd hrun hstop
    · exact envStep_sameMain henv t h
  · rw [step_stopped hstop hreq, envStep, henv]
  · rw [step_stopped hstop hreq, envStep, henv]
    rfl

/-- Settles O58: without a reset every part of a step leaves what is on the wire at its front. -/
theorem wireOutputOnlyGrows : Obligations.WireOutputOnlyGrows := by
  intro s t c henv hreqs hmain h
  have hahead : ¬ s.resetAhead := fun ha => ha.elim (henv _ · rfl) fun ⟨r, hr, hd⟩ => hreqs r hr hd
  obtain ⟨_, _, more, hmore⟩ :=
    (wireBegins_stepInvariant c (s.wireOut.get c)).step ⟨hahead, hmain, List.prefix_rfl⟩ h
  exact ⟨more, hmore.symm⟩

/-- Settles O1. -/
theorem resetEventGivesResetValues : Obligations.ResetEventGivesResetValues := by
  intro s
  refine ⟨resetEvent s, rfl, fun q => ?_, fun c => ?_, rfl, rfl, rfl, rfl, rfl, rfl, rfl, rfl, rfl, rfl, rfl⟩
  · rw [resetEvent_ring]
    exact ⟨rfl, rfl⟩
  · rw [resetEvent_lf]
    exact ⟨Four.get_all _ c, rfl, rfl, Four.get_all _ c⟩

/-- Settles O2: the reset values meet the invariant under admissible parameters, and `T0` is admissible. -/
theorem resetMeetsInvariants : Obligations.ResetMeetsInvariants := by
  have hcfg : Config.t0.wf := by decide
  exact ⟨initial_wf hcfg List.length_replicate, linesShort_of_len_zero hcfg fun c => by rw [State.reset, initial_lf]⟩

end Sys2Proof.Machine
end

section
/-!
The obligation of 20_memory: a turn of the schedule other than a reset writes nothing `MAIN` owns. `AfterEvent` has the
registers of `MAIN`; added here is the producer's side of every transmit buffer (10_state R23), of which a handler may
write only the `rd` beside it.
-/
namespace Sys2Proof.Machine

/-! ### The producer's side of the transmit buffers -/

/-- `wr` and storage of every transmit buffer, the value last returned and the mark that `SYS.START` is due are as in `s`:
what `MAIN` writes besides the registers of `State.sameMain`. -/
structure State.sameProducer (t s : State) : Prop where
  ret : t.ret = s.ret
  startPending : t.startPending = s.startPending
  tx : ∀ c, (t.ring (.tx c)).wr = (s.ring (.tx c)).wr ∧ (t.ring (.tx c)).store = (s.ring (.tx c)).store

namespace State.sameProducer
variable {s t u : State}

theorem refl (s : State) : s.sameProducer s := ⟨rfl, rfl, fun _ => ⟨rfl, rfl⟩⟩

/-- The fields not named here may take any value. -/
theorem same (h : t.sameProducer s) (ret : u.ret = t.ret := by rfl)
    (startPending : u.startPending = t.startPending := by rfl) (tx : u.tx = t.tx := by rfl) : u.sameProducer s where
  ret := ret.trans h.ret
  startPending := startPending.trans h.startPending
  tx c := by
    have hring : u.ring (.tx c) = t.ring (.tx c) := congrArg (Four.get · c) tx
    exact hring ▸ h.tx c

/-- A write of `rd` is the consumer's. -/
theorem setRd (s : State) (q : Queue) (v : Nat) : (s.setRd q v).sameProducer s := by
  refine ⟨rfl, rfl, fun c => ?_⟩
  by_cases h : Queue.tx c = q
  · rw [h, State.ring_setRd]
    exact ⟨rfl, rfl⟩
  · rw [State.setRd, State.ring_setRing_ne s _ h]
    exact ⟨rfl, rfl⟩

end State.sameProducer

/-! ### Handlers and turns -/

/-- The receive handler writes a receive buffer only. -/
theorem pushDropOldest_rx_sameProducer (c : Channel) (b : Byte) (s : State) :
    Res.All (pushDropOldest (.rx c) b s) (·.sameProducer s) := by
  intro t ht
  obtain ⟨_, rfl⟩ := pushDropOldest_next ht
  exact (State.sameProducer.refl s).same

theorem popAtomic_sameProducer {q : Queue} {s t : State} {r : Option Byte} (h : popAtomic q s = .ok (r, t)) :
    t.sameProducer s := by
  rcases popAtomic_ok h with ⟨_, rfl, _⟩ | ⟨_, _, _, _, rfl⟩
  · exact .refl t
  · exact .setRd s q _

theorem txiBody_sameProducer (c : Channel) (s : State) : Res.All (txiBody c s) (·.sameProducer s) := by
  unfold txiBody
  split
  · rename_i x t ht
    intro u hu
    obtain ⟨_, rfl⟩ := wire_next hu
    exact (popAtomic_sameProducer ht).same
  · rename_i t ht
    exact Res.all_next (popAtomic_sameProducer ht).same
  · exact Res.all_fault _

/-- Entry and return of a handler write `isr_active` only. -/
theorem asHandler_sameProducer {body : State → Res} {s : State} (h : ∀ u, Res.All (body u) (·.sameProducer u)) :
    Res.All (asHandler body s) (·.sameProducer s) := by
  intro t ht
  obtain ⟨u, hu, rfl⟩ := asHandler_next ht
  obtain ⟨hret, hstart, htx⟩ := h _ u hu
  exact ⟨hret, hstart, htx⟩

theorem deliver_sameProducer {e : Turn} (he : e ≠ .reset) (s : State) :
    Res.All (deliver e s) (·.sameProducer s) := by
  have hidle : Res.All (.next s) (·.sameProducer s) := Res.all_next (.refl s)
  cases e with
  | main => exact hidle
  | rxByte c b =>
    exact Res.all_ite (fun _ => asHandler_sameProducer (pushDropOldest_rx_sameProducer c b)) fun _ => hidle
  | txRdy c =>
    show Res.All (.next (txRdyEvent c s)) _
    unfold txRdyEvent
    split
    · exact hidle
    · exact Res.all_next (State.sameProducer.refl s).same
  | txi c => exact Res.all_ite (fun _ => asHandler_sameProducer (txiBody_sameProducer c)) fun _ => hidle
  | tick =>
    exact Res.all_ite (fun _ => asHandler_sameProducer fun u => Res.all_next (State.sameProducer.refl u).same)
      fun _ => hidle
  | pin p v => exact Res.all_next (State.sameProducer.refl s).same
  | reset => exact absurd rfl he

/-! ### The obligation -/

/-- Settles O30: a turn keeps the registers of `MAIN` (`deliver_event`) and the producer's side of the transmit buffers
(`deliver_sameProducer`). -/
theorem handlersKeepMainsState : Obligations.HandlersKeepMainsState := by
  intro e s t hs he h
  obtain ⟨k, o⟩ := deliver_event he s t h
  have p := deliver_sameProducer he s t h
  exact ⟨k.cfg, o.lf, o.mask, o.last, o.lastNotify, o.lastPoll, o.ie, o.run, o.wdtArmed, o.schedPhase, k.isr hs.isr,
    o.drvLog, o.main, p.ret, p.startPending, p.tx⟩

end Sys2Proof.Machine
end

section
/-!
The two encodings of 30_encoding: which byte stands for an operand and what each operand shape accepts, said once as an
equivalence, so that both directions between request and instruction come from the same lemma.
-/
namespace Sys2Proof

/-! ### Operand bytes -/

theorem Channel.ofByte?_eq_some {v : Byte} {c : Channel} : Channel.ofByte? v = some c ↔ v = c.code := by
  constructor
  · intro h
    unfold Channel.ofByte? at h
    split at h <;> cases h <;> exact BitVec.eq_of_toNat_eq ‹_›
  · rintro rfl
    cases c <;> rfl

theorem Queue.ofByte?_eq_some {v : Byte} {q : Queue} : Queue.ofByte? v = some q ↔ v = q.code := by
  constructor
  · intro h
    unfold Queue.ofByte? at h
    split at h <;> cases h <;> exact BitVec.eq_of_toNat_eq ‹_›
  · rintro rfl
    obtain ⟨c, d⟩ := q
    cases c <;> cases d <;> rfl

theorem Pin.toNat_code (i : Pin) : (Pin.code i).toNat = i.val := by
  simp only [Pin.code, BitVec.toNat_ofNat]
  omega

theorem Pin.ofByte?_eq_some {v : Byte} {i : Pin} : Pin.ofByte? v = some i ↔ v = Pin.code i := by
  constructor
  · intro h
    obtain ⟨_, hi⟩ := Option.dite_none_right_eq_some.mp h
    obtain rfl := Option.some.inj hi
    exact (BitVec.eq_of_toNat_eq (Pin.toNat_code _)).symm
  · rintro rfl
    simp [Pin.ofByte?, Pin.toNat_code]

theorem FatalKind.ofByte?_eq_some {v : Byte} {k : FatalKind} : FatalKind.ofByte? v = some k ↔ v = k.code := by
  constructor
  · intro h
    unfold FatalKind.ofByte? at h
    split at h <;> cases h <;> exact BitVec.eq_of_toNat_eq ‹_›
  · rintro rfl
    cases k <;> rfl

theorem bitOfByte?_eq_some {v : Byte} {b : Bool} : bitOfByte? v = some b ↔ v = bitCode b := by
  constructor
  · intro h
    unfold bitOfByte? at h
    split at h <;> cases h <;> exact BitVec.eq_of_toNat_eq ‹_›
  · rintro rfl
    cases b <;> rfl

/-! ### Operand shapes -/

section
variable {code : Byte} {args : List Byte} {i : Instr}

theorem takeNone_eq_ok {j : Instr} : takeNone code args j = .ok i ↔ args = [] ∧ j = i := by
  unfold takeNone
  split <;> simp_all

theorem takeC_eq_ok {mk : Channel → Instr} : takeC code args mk = .ok i ↔ ∃ c, args = [c.code] ∧ mk c = i := by
  unfold takeC
  split
  · split <;> simp_all [← Channel.ofByte?_eq_some]
  · simp_all

theorem takeCB_eq_ok {mk : Channel → Byte → Instr} :
    takeCB code args mk = .ok i ↔ ∃ c b, args = [c.code, b] ∧ mk c b = i := by
  unfold takeCB
  split
  · split <;> simp_all [← Channel.ofByte?_eq_some]
  · simp_all

theorem takeQ_eq_ok {mk : Queue → Instr} : takeQ code args mk = .ok i ↔ ∃ q, args = [q.code] ∧ mk q = i := by
  unfold takeQ
  split
  · split <;> simp_all [← Queue.ofByte?_eq_some]
  · simp_all

theorem takeQB_eq_ok {mk : Queue → Byte → Instr} :
    takeQB code args mk = .ok i ↔ ∃ q b, args = [q.code, b] ∧ mk q b = i := by
  unfold takeQB
  split
  · split <;> simp_all [← Queue.ofByte?_eq_some]
  · simp_all

theorem takeRxB_eq_ok {mk : Queue → Byte → Instr} :
    takeRxB code args mk = .ok i ↔ ∃ c b, args = [(Queue.rx c).code, b] ∧ mk (.rx c) b = i := by
  unfold takeRxB
  split
  · split <;> simp_all [← Queue.ofByte?_eq_some]
  · simp_all

theorem takePI_eq_ok {mk : Nat → Pin → Instr} :
    takePI code args mk = .ok i ↔ ∃ p j, args = [p, Pin.code j] ∧ mk p.toNat j = i := by
  unfold takePI
  split
  · split <;> simp_all [← Pin.ofByte?_eq_some]
  · simp_all

theorem takeAux_eq_ok {mk : Channel → Instr} :
    takeAux code args mk = .ok i ↔ ∃ k, k ≠ .ch0 ∧ args = [k.code] ∧ mk k = i := by
  unfold takeAux
  split
  · split <;> simp_all [← Channel.ofByte?_eq_some]
  · simp_all

theorem takeKind_eq_ok {mk : FatalKind → Instr} :
    takeKind code args mk = .ok i ↔ ∃ k, args = [k.code] ∧ mk k = i := by
  unfold takeKind
  split
  · split <;> simp_all [← FatalKind.ofByte?_eq_some]
  · simp_all

theorem takeBit_eq_ok {mk : Bool → Instr} : takeBit code args mk = .ok i ↔ ∃ v, args = [bitCode v] ∧ mk v = i := by
  unfold takeBit
  split
  · split <;> simp_all [← bitOfByte?_eq_some]
  · simp_all

end

/-! ### First bytes -/

/-- The select codes of 30_encoding R91. -/
def operationCodes : List Nat :=
  [0x00, 0x01, 0x02, 0x03, 0x04, 0x10, 0x11, 0x12, 0x13, 0x20, 0x21, 0x30, 0x31, 0x32, 0x38, 0x40, 0x48, 0x49, 0x4A, 0x50,
    0x51, 0x52, 0x53, 0x58, 0x59, 0x5A]

theorem decodeOp_unknownCode {op : Byte} (h : op.toNat ∉ operationCodes) (args : List Byte) :
    decodeOp (op :: args) = .error (.unknownCode op) := by
  simp only [decodeOp]
  split
  case h_27 => rfl
  all_goals simp_all [operationCodes]

/-- A first byte no other command claims, `Z` in a longer line among them (R95, R107). -/
theorem decodeLine_unknown {op : Byte} {args : List Byte} (h : op ∉ definedFirstBytes)
    (hz : ¬(op = 0x5A#8 ∧ args = [])) : decodeLine (op :: args) = .ok (.cmdUnk op args) := by
  have hcode : op.toNat ∉ definedFirstBytes.map BitVec.toNat := fun hm => by
    obtain ⟨b, hb, he⟩ := List.mem_map.mp hm
    exact h (BitVec.eq_of_toNat_eq he ▸ hb)
  simp only [decodeLine]
  split
  case h_12 hop => exact if_neg fun hargs => hz ⟨BitVec.eq_of_toNat_eq hop, hargs⟩
  case h_13 => rfl
  all_goals simp_all

/-! ### Decode and encode -/

/-- Each operand shape accepts the operands the encoder writes, and each first byte selects its command. -/
theorem decode_encode (i : Instr) (hi : i.wf) : decode (encode i) = .ok i := by
  cases i with
  | rbPush q b => simp [encode, decode, decodeOp, takeQB_eq_ok]
  | rbPop q | rbEmpty q | rbFull q => simp [encode, decode, decodeOp, takeQ_eq_ok]
  | rbPushd q b =>
    obtain ⟨c, d⟩ := q
    obtain rfl : d = .rx := hi
    simp [encode, decode, decodeOp, takeRxB_eq_ok]
  | chRxi c b | chTx c b | envRxbyte c b => simp [encode, decode, decodeOp, takeCB_eq_ok]
  | chTxi c | chDrain c | lfAppend c | lfReset c | envTxrdy c => simp [encode, decode, decodeOp, takeC_eq_ok]
  | pmWatch p j | pmUnwatch p j =>
    have hp : (BitVec.ofNat 8 p).toNat = p := Nat.mod_eq_of_lt hi
    simp [encode, decode, decodeOp, takePI_eq_ok, hp]
  | schB k => simpa [encode, decode, decodeOp, takeAux_eq_ok] using hi
  | sysFatal kind => simp [encode, decode, decodeOp, takeKind_eq_ok]
  | sysCritExit saved => simp [encode, decode, decodeOp, takeBit_eq_ok]
  | pmPoll | clkTick | cdDispatch | schA | schC | sysStart | sysCritEnter | envReset => rfl
  | cmdUnk op args =>
    obtain ⟨hop, _, _, _, hz⟩ := hi
    exact decodeLine_unknown hop hz
  | cmdZ | cmdFwd1 | cmdFwd2 | cmdFwd3 | cmdH | cmdL | cmdU | cmdD | cmdI | cmdA | cmdM | cmdN => rfl

/-- Each operand shape accepts only what the encoder writes, with operands in range. The cases are numbered as the rows of
R91, the last is a code outside the table. -/
theorem decodeOp_eq_ok {bytes : List Byte} {i : Instr} (h : decodeOp bytes = .ok i) :
    encode i = .op bytes ∧ i.wf := by
  cases bytes with
  | nil => cases h
  | cons op args =>
    simp only [decodeOp] at h
    split at h
    case h_27 => cases h
    all_goals
      rename_i hop
      obtain rfl := (BitVec.toNat_eq_nat.mp hop).2
    case h_1 =>
      obtain ⟨q, b, rfl, rfl⟩ := takeQB_eq_ok.mp h
      exact ⟨rfl, trivial⟩
    case h_2 | h_3 | h_4 =>
      obtain ⟨q, rfl, rfl⟩ := takeQ_eq_ok.mp h
      exact ⟨rfl, trivial⟩
    case h_5 =>
      obtain ⟨c, b, rfl, rfl⟩ := takeRxB_eq_ok.mp h
      exact ⟨rfl, rfl⟩
    case h_6 | h_8 | h_24 =>
      obtain ⟨c, b, rfl, rfl⟩ := takeCB_eq_ok.mp h
      exact ⟨rfl, trivial⟩
    case h_7 | h_9 | h_10 | h_11 | h_25 =>
      obtain ⟨c, rfl, rfl⟩ := takeC_eq_ok.mp h
      exact ⟨rfl, trivial⟩
    case h_13 | h_14 =>
      obtain ⟨p, j, rfl, rfl⟩ := takePI_eq_ok.mp h
      exact ⟨by simp [encode], p.isLt⟩
    case h_18 =>
      obtain ⟨k, hk, rfl, rfl⟩ := takeAux_eq_ok.mp h
      exact ⟨rfl, hk⟩
    case h_21 =>
      obtain ⟨kind, rfl, rfl⟩ := takeKind_eq_ok.mp h
      exact ⟨rfl, trivial⟩
    case h_23 =>
      obtain ⟨saved, rfl, rfl⟩ := takeBit_eq_ok.mp h
      exact ⟨rfl, trivial⟩
    all_goals
      obtain ⟨rfl, rfl⟩ := takeNone_eq_ok.mp h
      exact ⟨rfl, trivial⟩

end Sys2Proof
end

section
/-!
The fatal report runs (60_exceptions R274): from a state whose queued bytes have been written, `MAIN` alone with `I = 0`
meets no fault and no refusal inside `CH.TX` or `CH.DRAIN`, however many turns it takes and whether or not the transmitter is
ready; and the report touches neither the driver log nor a mask.
-/
namespace Sys2Proof.Machine

/-! ### Runs that do not stop -/

/-- Any number of turns from `s` ends in a next state: no fault, no refusal. -/
def State.Runs (s : State) : Prop := ∀ n, ∃ t, runTurns n s = .next t

theorem State.Runs.of_settled {s : State} (h : s.settled = true) : s.Runs := fun n => ⟨s, runTurns_settled h n⟩

/-- A run that passes through `t` does not stop on the way there. -/
theorem State.Runs.of_turns {s t : State} (k : Nat) (h : ∀ n, runTurns (n + k) s = runTurns n t) (ht : t.Runs) :
    s.Runs := by
  intro n
  obtain ⟨u, hu⟩ := ht n
  rw [← h, runTurns_add] at hu
  obtain ⟨v, hv, _⟩ := andThen_eq_next.mp hu
  exact ⟨v, hv⟩

/-- `MAIN` alone takes its next access, unless it waits. -/
theorem State.Runs.of_access {s u : State} (hr : s.run = .running) (he : s.env = []) {m : Micro} {rest : List Micro}
    (h : access m (s.setMain rest) = .next u) (hu : u.Runs) : (s.setMain (m :: rest)).Runs := by
  by_cases hw : (s.setMain (m :: rest)).waiting = true
  · exact .of_settled (by simp [State.settled, he, hw])
  · refine .of_turns 1 (fun n => ?_) hu
    rw [runTurns_access hr he m rest (by simpa using hw), h, andThen_next]

/-- After a write of the transmit register (41_channel R151). -/
def State.afterWire (c : Channel) (b : Byte) (s : State) : State :=
  { s with wireOut := s.wireOut.set c (s.wireOut.get c ++ [b]), txReady := s.txReady.set c false }

theorem wire_eq {c : Channel} {s : State} (b : Byte) (h : s.txReady.get c = true) :
    wire c b s = .next (s.afterWire c b) := if_pos h

/-- `CH.DRAIN` d4 with a popped byte (41_channel R155). -/
theorem access_drainSend {c : Channel} {s : State} {x : Byte} (hret : s.ret = .byte (some x))
    (hready : s.txReady.get c = true) :
    access (.drainSend c) s = .next ((s.afterWire c x).push [.drainLoop c]) := by
  simp only [access, atDrainSend, hret, wire_eq x hready, andThen_next]

/-! ### The synchronous path of one channel -/

/-- `MAIN` runs alone with `I = 0`, and every byte queued on `tx[c]` has been written. -/
structure State.Masked (c : Channel) (s : State) : Prop where
  run : s.run = .running
  env : s.env = []
  ie : s.ie = false
  wf : s.wf
  written : ∃ bs, s.holds (.tx c) bs

theorem State.Masked.keeps {c : Channel} {s t : State} (hs : s.Masked c) (k : s.Keeps t) (run : t.run = s.run := by rfl)
    (ie : t.ie = s.ie := by rfl) (ring : t.ring (.tx c) = s.ring (.tx c) := by rfl) : t.Masked c := by
  have hq : t.queued (.tx c) = s.queued (.tx c) := by
    rw [State.queued_eq, State.queued_eq, ring, State.capacity, k.cfg]
  exact ⟨run.trans hs.run, k.env.trans hs.env, ie.trans hs.ie, hs.wf.keeps k,
    by simpa only [State.holds, hq] using hs.written⟩

/-- After `RB.POP(q)` of the byte `x` (40_ring_buffer R135). -/
def State.afterPop (s : State) (q : Queue) (x : Byte) : State :=
  (s.setRd q (nextIndex (s.capacity q) (s.ring q).rd)).withRet (.byte (some x))

theorem afterPop_keeps (q : Queue) (x : Byte) (s : State) : s.Keeps (s.afterPop q x) :=
  State.Keeps.same (.setRd .refl (nextIndex_lt _))

/-- From every such state, the positions `ms` run. -/
def MaskedRuns (c : Channel) (ms : List Micro) : Prop := ∀ s : State, s.Masked c → (s.setMain ms).Runs

section
variable {c : Channel} {rest : List Micro}

/-- An access that leaves such a state and what `MAIN` does next. -/
theorem MaskedRuns.of_access {m : Micro} {ms : List Micro} (hms : MaskedRuns c ms)
    (h : ∀ s : State, s.Masked c → ∃ t : State, access m (s.setMain rest) = .next (t.setMain ms) ∧ t.Masked c) :
    MaskedRuns c (m :: rest) := by
  intro s hs
  obtain ⟨t, ha, ht⟩ := h s hs
  exact .of_access hs.run hs.env ha (hms t ht)

/-- A push stores its byte at the end of the queue, or finds the buffer full (40_ring_buffer R134). -/
theorem maskedRuns_rbPush (b : Byte) (h : MaskedRuns c rest) : MaskedRuns c (.call (.rbPush (.tx c) b) :: rest) := by
  intro s hs
  by_cases hf : s.isFull (.tx c) = true
  · exact .of_turns 2 (runTurns_rbPush_full hs.run hs.env hf b rest) (h _ (hs.keeps (.same .refl)))
  · have hf : s.isFull (.tx c) = false := by simpa using hf
    obtain ⟨bs, hbs⟩ := hs.written
    have hpushed : (afterEmit c b s).Masked c :=
      ⟨hs.run, hs.env, hs.ie, hs.wf.afterEmit c b, bs ++ [b], afterEmit_holds hs.wf hbs hf b⟩
    refine .of_turns 4 (runTurns_rbPush hs.run hs.env hf (hs.wf.wr_lt _) b rest) (h _ ?_)
    exact hpushed.keeps (.same .refl)

/-- The test of `CH.DRAIN` (41_channel R155 d1). -/
theorem runs_drainLoop {s : State} (hs : s.Masked c)
    (h : ((s.withRet (.bool (s.isEmpty (.tx c)))).setMain
      (if s.isEmpty (.tx c) then rest else .drainWait c :: rest)).Runs) : (s.setMain (.drainLoop c :: rest)).Runs := by
  refine .of_access hs.run hs.env rfl (.of_turns 2 (runTurns_rbEmpty hs.run hs.env (.tx c) (.drainTest c :: rest)) ?_)
  refine .of_access (s := s.withRet (.bool (s.isEmpty (.tx c)))) hs.run hs.env ?_ h
  cases s.isEmpty (.tx c) <;> rfl

/-- One byte of a drain (R155 d2 to d4): where the transmitter is not ready `MAIN` waits; otherwise the byte at the front of
the queue goes to the wire, and the loop goes on with what is left. -/
theorem runs_drainWait {s : State} {x : Byte} {bs : List Byte} (hs : s.Masked c) (hbs : s.holds (.tx c) (x :: bs))
    (hloop : ∀ t : State, t.Masked c → t.holds (.tx c) bs → (t.setMain (.drainLoop c :: rest)).Runs) :
    (s.setMain (.drainWait c :: rest)).Runs := by
  by_cases hready : s.txReady.get c = true
  · obtain ⟨hne, hx, hleft⟩ := State.holds.read hs.wf hbs
    have hread : readSlot (.tx c) (s.ring (.tx c)).rd s = .ok x := readSlot_ok.mpr ⟨hs.wf.rd_lt _, hx⟩
    have hpopped : (s.afterPop (.tx c) x).holds (.tx c) bs := (State.queued_setRing s _ _).trans hleft
    refine .of_access hs.run hs.env (if_pos hready) (.of_turns 4
      (runTurns_rbPop hs.run hs.env (by simpa [State.isEmpty] using hne) hread (.drainSend c :: rest)) ?_)
    refine .of_access (s := s.afterPop (.tx c) x) hs.run hs.env (access_drainSend rfl hready) ?_
    have hk : s.Keeps ((s.afterPop (.tx c) x).afterWire c x) :=
      (afterPop_keeps _ x s).trans (.wire_next (wire_eq x hready))
    exact hloop ((s.afterPop (.tx c) x).afterWire c x) ⟨hs.run, hs.env, hs.ie, hs.wf.keeps hk, bs, hpopped⟩ hpopped
  · exact .of_settled (by simp [State.settled, State.waiting, hs.env, hready])

/-- The loop of `CH.DRAIN` empties the queue, byte by byte. -/
theorem maskedRuns_drainLoop (h : MaskedRuns c rest) : MaskedRuns c (.drainLoop c :: rest) := by
  intro s hs
  obtain ⟨bs, hbs⟩ := hs.written
  induction bs generalizing s with
  | nil =>
    have hempty : s.isEmpty (.tx c) = true :=
      (hs.wf.isEmpty_iff _).mpr (by simpa [State.queued] using congrArg List.length hbs)
    refine runs_drainLoop hs ?_
    rw [if_pos hempty]
    exact h _ (hs.keeps (.same .refl))
  | cons x bs ih =>
    have hempty : ¬ s.isEmpty (.tx c) = true := by simpa [State.isEmpty] using (State.holds.read hs.wf hbs).1
    refine runs_drainLoop hs ?_
    rw [if_neg hempty]
    exact runs_drainWait (hs.keeps (.same .refl)) hbs ih

theorem maskedRuns_critExit (h : MaskedRuns c rest) : MaskedRuns c (.call (.sysCritExit false) :: rest) :=
  h.of_access fun s hs => ⟨critExit false s, rfl, hs.keeps (.same .refl) (ie := hs.ie.symm)⟩

theorem maskedRuns_chDrain (h : MaskedRuns c rest) : MaskedRuns c (.call (.chDrain c) :: rest) :=
  (maskedRuns_drainLoop (maskedRuns_critExit h)).of_access fun s hs =>
    ⟨critEnter s, by rw [← hs.ie]; rfl, hs.keeps (.same .refl) (ie := hs.ie.symm)⟩

theorem maskedRuns_txMakeRoom (b : Byte) (h : MaskedRuns c rest) : MaskedRuns c (.txMakeRoom c b :: rest) := by
  have hpush := maskedRuns_rbPush b (maskedRuns_chDrain h)
  intro s hs
  by_cases hfull : s.ret = .bool true
  · exact .of_access hs.run hs.env (if_pos hfull) (maskedRuns_chDrain hpush s hs)
  · exact .of_access hs.run hs.env (if_neg hfull) (hpush s hs)

/-- `CH.TX` with `I = 0` (41_channel R154 u1 to u3). -/
theorem maskedRuns_emit (b : Byte) (h : MaskedRuns c rest) : MaskedRuns c (emit c b :: rest) := by
  intro s hs
  refine .of_access hs.run hs.env (if_neg (by simp [hs.ie])) ?_
  exact .of_turns 2 (runTurns_rbFull hs.run hs.env (.tx c) (.txMakeRoom c b :: rest))
    (maskedRuns_txMakeRoom b h _ (hs.keeps (.same .refl)))

theorem maskedRuns_emitAll (bs : List Byte) (h : MaskedRuns c rest) : MaskedRuns c (emitAll c bs ++ rest) := by
  induction bs with
  | nil => exact h
  | cons b bs ih => exact maskedRuns_emit b ih

theorem maskedRuns_fatalHalt (kind : FatalKind) : MaskedRuns c (.fatalHalt kind :: rest) := fun s hs =>
  .of_access hs.run hs.env (u := { s with run := .halted kind }.setMain []) rfl (.of_settled (settled_of_done rfl))

theorem maskedRuns_fatalArm (h : MaskedRuns c rest) : MaskedRuns c (.fatalArm :: rest) := by
  refine h.of_access fun s hs => ?_
  show ∃ t, atFatalArm (s.setMain rest) = _ ∧ _
  unfold atFatalArm
  split
  · exact ⟨s.wdtArm, rfl, hs.keeps (.same .refl)⟩
  · exact ⟨s, rfl, hs⟩

end

/-! ### What the report leaves -/

/-- The schedule, the driver log and the masks are as in `s`. -/
def State.SameDrivers (s t : State) : Prop := t.env = s.env ∧ t.drvLog = s.drvLog ∧ t.mask = s.mask

theorem State.SameDrivers.refl (s : State) : s.SameDrivers s := ⟨rfl, rfl, rfl⟩

/-- No access of the report takes a driver action or changes a mask. -/
theorem access_reportOn_sameDrivers {c : Channel} {m : Micro} (hm : m.reportOn c = true) (s : State) :
    Res.All (access m s) s.SameDrivers := by
  cases m with
  | call i =>
    cases i with
    | chTx => exact Res.all_ite (fun _ => Res.all_next (.refl s)) fun _ => Res.all_next (.refl s)
    | chDrain | rbFull | rbEmpty | rbPush | rbPop | sysCritExit => exact Res.all_next (.refl s)
    | _ => cases hm
  | emptyWr | fullRd | pushWr | popRd | drainLoop => exact Res.all_next (.refl s)
  | pushRd | popWr | txMakeRoom | drainTest | drainWait =>
    exact Res.all_ite (fun _ => Res.all_next (.refl s)) fun _ => Res.all_next (.refl s)
  | pushStore q b w =>
    refine Res.all_andThen fun t ht => ?_
    obtain ⟨_, rfl⟩ := writeSlot_next ht
    exact Res.all_next (.refl s)
  | popStore q r =>
    show Res.All (atPopStore q r s) _
    unfold atPopStore
    split
    · exact Res.all_next (.refl s)
    · exact Res.all_fault _
  | drainSend d =>
    show Res.All (atDrainSend d s) _
    unfold atDrainSend
    split
    · refine Res.all_andThen fun t ht => ?_
      obtain ⟨_, rfl⟩ := wire_next ht
      exact Res.all_next (.refl s)
    · exact Res.all_next (.refl s)
  | fatalArm =>
    show Res.All (atFatalArm s) _
    unfold atFatalArm
    split <;> exact Res.all_next (.refl s)
  | _ => cases hm

/-- With the fatal error under way, so is what `MAIN` does next: report, or the halt. -/
theorem State.fatalUnderway.sameDrivers {kind : FatalKind} {s : State} {m : Micro} {rest : List Micro}
    (hs : s.fatalUnderway kind) (hrun : s.run = .running) (hmain : s.main = m :: rest) :
    Res.All (Machine.access m (s.setMain rest)) s.SameDrivers := by
  obtain ⟨_, hhalted | ⟨_, pre, post, hsplit, hpre⟩⟩ := hs
  · rw [hrun] at hhalted
    cases hhalted
  cases pre with
  | nil =>
    obtain ⟨rfl, rfl⟩ := List.cons.inj (hmain.symm.trans hsplit)
    exact Res.all_next (.refl s)
  | cons m' pre =>
    obtain ⟨rfl, rfl⟩ := List.cons.inj (hmain.symm.trans hsplit)
    exact access_reportOn_sameDrivers (hpre m List.mem_cons_self) _

theorem State.fatalUnderway.inFatal {kind : FatalKind} {s : State} (h : s.fatalUnderway kind) : s.inFatal kind := by
  obtain ⟨hie, hhalted | ⟨hrun, pre, post, hmain, _⟩⟩ := h
  · exact ⟨hie, .inl hhalted⟩
  · exact ⟨hie, .inr ⟨hrun, by simp [hmain]⟩⟩

theorem runTurns_fatalUnderway {kind : FatalKind} {n : Nat} {s t : State} (hs : s.fatalUnderway kind) (henv : s.env = [])
    (h : runTurns n s = .next t) : t.fatalUnderway kind ∧ s.SameDrivers t := by
  refine runTurns_keeps (P := fun u => u.fatalUnderway kind ∧ s.SameDrivers u) (fun u v hu hset hturn => ?_) n
    ⟨hs, .refl s⟩ h
  obtain ⟨hf, he, hd, hm⟩ := hu
  have hrun : u.run = .running := by simp_all [State.settled, State.idle]
  have hacc : mainAccess u = .next v := by rwa [turn, he.trans henv] at hturn
  unfold mainAccess at hacc
  split at hacc
  · cases hacc
    exact ⟨hf, he, hd, hm⟩
  · rename_i m rest hmain
    obtain ⟨he', hd', hm'⟩ := hf.sameDrivers hrun hmain v hacc
    exact ⟨hf.access hrun hmain v hacc, he'.trans he, hd'.trans hd, hm'.trans hm⟩

/-! ### Raising a fatal error -/

/-- A fatal error at the first line of an operation executed alone is entered, and nothing but the report follows
(60_exceptions R274, R277). -/
theorem byMain_raiseFatal {i : Instr} {kind : FatalKind} {s : State} {bs : List Byte} (hs : s.wf) (hrest : s.atRest)
    (hbs : s.holds (.tx .ch0) bs) (hi : callInstr i s = .next (raiseFatal kind s)) :
    ∃ t, byMain i s = .next t ∧ t.inFatal kind ∧ t.drvLog = s.drvLog ∧ t.mask = s.mask := by
  obtain ⟨hrun, hmain, henv⟩ := hrest
  have hself : s.setMain [] = s := by rw [← hmain, State.setMain_main_self]
  have hmasked : State.Masked .ch0 { s with ie := false } :=
    ⟨hrun, henv, rfl, hs.keeps (.same .refl), bs, hbs⟩
  have hreport : (enterFatal kind s).Runs :=
    maskedRuns_emitAll _ (maskedRuns_fatalArm (maskedRuns_fatalHalt kind)) _ hmasked
  obtain ⟨n, hn⟩ : ∃ n, (s.setMain [.call i]).budget = n + 2 :=
    ⟨(s.setMain [.call i]).budget - 2, by unfold State.budget; omega⟩
  have hexec : byMain i s = runTurns n (enterFatal kind s) := by
    rw [byMain, if_pos hrun, hmain, List.nil_append, runMain, hn, runTurns_call hrun henv, hself, hi, andThen_next]
    exact runTurns_call hrun henv (.sysFatal kind) [] n
  obtain ⟨t, ht⟩ := hreport n
  obtain ⟨hf, _, hdrv, hmask⟩ := runTurns_fatalUnderway (enterFatal_underway hrun) henv ht
  exact ⟨t, hexec.trans ht, hf.inFatal, hdrv, hmask⟩

end Sys2Proof.Machine
end

section
/-!
The obligations of 30_encoding: the two encodings (R90 to R99, R107), how a request runs, the hex rendering (R103), and the
faults of a command line (R112).
-/
namespace Sys2Proof.Machine

/-! ### Fetching a request -/

section
variable {s : State} {r : Request} {rest : List Request}

theorem step_request {i : Instr} (hreq : s.requests = r :: rest) (hi : decode r = .ok i) :
    step s = exec i { s with requests := rest } := by
  simp only [step, hreq, hi]

theorem step_refused {e : DecodeError} (hreq : s.requests = r :: rest) (he : decode r = .error e) :
    step s = .refused (.badRequest e) := by
  simp only [step, hreq, he]

end

theorem decodeTableWord_eq_some {nbits w : Nat} {i : Instr} :
    decodeTableWord nbits w = some i ↔ decode (tableRequest nbits w) = .ok i := by
  unfold decodeTableWord
  split <;> simp_all

/-! ### Hex digits -/

theorem toNat_hexDigit {d : Nat} (h : d < 16) :
    (hexDigit d).toNat = if d < 10 then 0x30 + d else 0x41 + d - 10 := by
  unfold hexDigit
  split <;> simp only [BitVec.toNat_ofNat] <;> omega

/-! ### The faults of a `G3` line (44_dispatcher R211 g1, g2, 60_exceptions R273) -/

theorem pinIndex_eq_none {digit : Byte} (h : ¬(0x30 ≤ digit.toNat ∧ digit.toNat ≤ 0x37)) :
    pinIndex digit = none := dif_neg h

theorem g3Operands_short {args : List Byte} (h : args.length < 2) : g3Operands args = .error .lineTooShort := by
  match args with
  | [] | [_] => rfl
  | _ :: _ :: _ => simp at h

theorem g3Operands_pin {port pin : Byte} {more : List Byte} (h : ¬(0x30 ≤ pin.toNat ∧ pin.toNat ≤ 0x37)) :
    g3Operands (port :: pin :: more) = .error .pinRange := by
  simp only [g3Operands, pinIndex_eq_none h]

theorem indexIn_eq_none {ls : List Byte} {b : Byte} (h : b ∉ ls) : indexIn ls b = none := by
  induction ls with
  | nil => rfl
  | cons l ls ih =>
    rw [List.mem_cons, not_or] at h
    obtain ⟨hl, hls⟩ := h
    simp only [indexIn, if_neg (Ne.symm hl), ih hls, Option.map_none]

section
variable {args : List Byte} {s : State} {act : Byte → Byte → Pin → Nat → Res}

theorem withPort_error {kind : FatalKind} (h : g3Operands args = .error kind) :
    withPort args s act = .next (raiseFatal kind s) := by
  simp only [withPort, h]

theorem withPort_badPort {port pin : Byte} {i : Pin} (h : g3Operands args = .ok (port, pin, i))
    (hport : port ∉ s.cfg.ports) : withPort args s act = .next (raiseFatal .badPort s) := by
  simp only [withPort, h, portIndex, indexIn_eq_none hport]

end

/-- The eight commands of 30_encoding R97 with the operands `args`. -/
def definedG3 (args : List Byte) : List Instr :=
  [.cmdH args, .cmdL args, .cmdU args, .cmdD args, .cmdI args, .cmdA args, .cmdM args, .cmdN args]

/-- A defined command is the common part and an action of its own. -/
theorem definedG3_withPort {args : List Byte} {i : Instr} (hi : i ∈ definedG3 args) (s : State) :
    exec i s = byMain i s ∧ ∃ act, callInstr i s = withPort args s act := by
  simp only [definedG3, List.mem_cons, List.not_mem_nil, or_false] at hi
  rcases hi with rfl | rfl | rfl | rfl | rfl | rfl | rfl | rfl <;> exact ⟨rfl, _, rfl⟩

theorem startCmdUnk_error {op : Byte} {args : List Byte} {s : State} {kind : FatalKind} (h : g3Operands args = .error kind) :
    startCmdUnk op args s = .next (raiseFatal kind s) := by
  simp only [startCmdUnk, h]

/-! ### The obligations -/

/-- Settles O8. -/
theorem decodeEncodeRoundTrip : Obligations.DecodeEncodeRoundTrip := decode_encode

/-- Settles O9. -/
theorem operationRequestHasOneMeaning : Obligations.OperationRequestHasOneMeaning := fun _ _ => decodeOp_eq_ok

/-- Settles O4. -/
theorem requestStepRunsDecodedInstruction : Obligations.RequestStepRunsDecodedInstruction :=
  fun _ _ _ _ => step_request

/-- Settles O5: the word's request is the first one, and taking it away gives the state back. -/
theorem tableWordRunsAsDecoded : Obligations.TableWordRunsAsDecoded := by
  intro s nbits w i h
  exact step_request (s := s.withFetchWord nbits w) (rest := s.requests) rfl (decodeTableWord_eq_some.mp h)

/-- Settles O6: the table's rows are encodings, and an unknown code is refused by the step. -/
theorem operationCodesAreTheTable : Obligations.OperationCodesAreTheTable := by
  have row : ∀ i : Instr, i.wf → decode (encode i) = .ok i := decode_encode
  refine ⟨fun q b => row (.rbPush q b) trivial, fun q => row (.rbPop q) trivial, fun q => row (.rbEmpty q) trivial,
    fun q => row (.rbFull q) trivial, fun c b => row (.rbPushd (.rx c) b) rfl, fun c b => row (.chRxi c b) trivial,
    fun c => row (.chTxi c) trivial, fun c b => row (.chTx c b) trivial, fun c => row (.chDrain c) trivial,
    fun c => row (.lfAppend c) trivial, fun c => row (.lfReset c) trivial, row .pmPoll trivial, fun p i => ?_,
    fun p i => ?_, row .clkTick trivial, row .cdDispatch trivial, row .schA trivial, fun k hk => row (.schB k) hk,
    row .schC trivial, row .sysStart trivial, fun kind => row (.sysFatal kind) trivial, row .sysCritEnter trivial,
    fun saved => row (.sysCritExit saved) trivial, fun c b => row (.envRxbyte c b) trivial,
    fun c => row (.envTxrdy c) trivial, row .envReset trivial, fun s op args rest hop hreq => ?_⟩
  · simpa [encode] using row (.pmWatch p.toNat i) p.isLt
  · simpa [encode] using row (.pmUnwatch p.toNat i) p.isLt
  · exact step_refused hreq (decodeOp_unknownCode hop args)

/-- Settles O7: the letters by the decoder's branches, every other first byte by `decodeLine_unknown`. -/
theorem lineFormatSelection : Obligations.LineFormatSelection := by
  refine ⟨rfl, fun x xs => rfl, fun xs => ⟨rfl, rfl, rfl⟩, fun xs => ⟨rfl, rfl, rfl, rfl, rfl, rfl, rfl, rfl⟩,
    fun op xs h => ?_⟩
  exact decodeLine_unknown (fun hd => h (List.mem_append_left [0x5A#8] hd)) fun hz => h (by simp [hz.1])

/-- Settles O10: each word is the encoding of its instruction. -/
theorem sampleWordsDecode : Obligations.SampleWordsDecode :=
  ⟨decode_encode (.envRxbyte .ch0 0x41#8) trivial, decode_encode (.rbPush (.tx .ch2) 0x41#8) trivial,
    decode_encode (.lfReset .ch3) trivial, decode_encode (.pmWatch 2 2) (by decide),
    decode_encode (.sysFatal .lineTooLong) trivial, decode_encode (.cmdH [0x41#8, 0x33#8]) (by decide),
    decode_encode (.cmdFwd1 [0x48#8, 0x69#8]) (by decide)⟩

/-- Settles O11: the digits are the remainders `hex16` renders. -/
theorem hexRenderingIsBigEndian : Obligations.HexRenderingIsBigEndian := by
  intro v
  have hv : v.toNat < 65536 := v.isLt
  have hmod : ∀ m, m % 16 < 16 := fun m => Nat.mod_lt m (by decide)
  refine ⟨v.toNat / 4096 % 16, v.toNat / 256 % 16, v.toNat / 16 % 16, v.toNat % 16, hmod _, hmod _, hmod _, hmod _,
    by omega, ?_⟩
  simp only [hex16, List.map_cons, List.map_nil, toNat_hexDigit (hmod _)]

/-- Settles O49: a fault of the operands is raised by the first line of the command, and the fatal report runs. -/
theorem illegalCommandsAreFatal : Obligations.IllegalCommandsAreFatal := by
  intro s op args w hs hrest hw i hi
  have hcase : i ∈ definedG3 args ∨ i = .cmdUnk op args := by simpa [definedG3, or_assoc] using hi
  have hexec : exec i s = byMain i s := by
    rcases hcase with hi | rfl
    · exact (definedG3_withPort hi s).1
    · rfl
  have hraise : ∀ kind, callInstr i s = .next (raiseFatal kind s) →
      ∃ t, exec i s = .next t ∧ t.inFatal kind ∧ t.drvLog = s.drvLog ∧ t.mask = s.mask := fun kind h =>
    hexec ▸ byMain_raiseFatal hs hrest hw h
  have herror : ∀ kind, g3Operands args = .error kind → callInstr i s = .next (raiseFatal kind s) := fun kind h => by
    rcases hcase with hi | rfl
    · obtain ⟨_, act, hact⟩ := definedG3_withPort hi s
      exact hact.trans (withPort_error h)
    · exact startCmdUnk_error h
  refine ⟨fun hlen => hraise _ (herror _ (g3Operands_short hlen)), fun port pin more hargs hpin => ?_,
    fun port pin more hargs hlo hhi hport hne => ?_⟩
  · exact hraise _ (herror _ (hargs ▸ g3Operands_pin hpin))
  · obtain ⟨_, act, hact⟩ := definedG3_withPort (hcase.resolve_right hne) s
    have hops : g3Operands args = .ok (port, pin, ⟨pin.toNat - 0x30, by omega⟩) := by
      simp only [hargs, g3Operands, pinIndex, dif_pos (And.intro hlo hhi)]
    exact hraise _ (hact.trans (withPort_badPort hops hport))

end Sys2Proof.Machine
end

section
/-!
The obligations of 40_ring_buffer: what each operation answers when it is executed alone (R132 to R136), and the FIFO law of a
sequence of them (R138).
-/
namespace Sys2Proof.Machine

/-! ### One operation of `MAIN`, alone -/

/-- An operation that `MAIN` finishes in `k` accesses leaves what those leave. -/
theorem byMain_of_turns {i : Instr} {s t : State} (hrest : s.atRest) {k : Nat}
    (h : ∀ n, runTurns (n + k) (s.setMain [.call i]) = runTurns n (t.setMain []))
    (hk : k ≤ 1000 := by decide) (ht : t.main = s.main := by rfl) : byMain i s = .next t := by
  have hdone : t.main = [] := ht.trans hrest.main
  obtain ⟨n, hn⟩ : ∃ n, (s.setMain [.call i]).budget = n + k :=
    ⟨(s.setMain [.call i]).budget - k, by unfold State.budget; omega⟩
  rw [byMain, if_pos hrest.run, hrest.main, List.nil_append, runMain, hn, h, ← hdone, State.setMain_main_self,
    runTurns_settled (settled_of_done hdone)]

section
variable {s : State} (hrest : s.atRest) {q : Queue}
include hrest

theorem exec_rbEmpty : exec (.rbEmpty q) s = .next (s.withRet (.bool (s.isEmpty q))) :=
  byMain_of_turns hrest (runTurns_rbEmpty hrest.run hrest.env q [])

theorem exec_rbFull : exec (.rbFull q) s = .next (s.withRet (.bool (s.isFull q))) :=
  byMain_of_turns hrest (runTurns_rbFull hrest.run hrest.env q [])

end

/-! ### The two sides of a buffer

One side is `MAIN`'s, access by access, the other a handler's, in one piece (10_state R23); alone they do the same. -/

/-- After `RB.PUSH(q, b)` into a buffer with room (40_ring_buffer R134). -/
def State.afterPush (s : State) (q : Queue) (b : Byte) : State :=
  (s.setRing q
    { store := Memory.write (s.ring q).store (s.ring q).wr b
      rd := (s.ring q).rd
      wr := nextIndex (s.capacity q) (s.ring q).wr }).withRet (.bool true)

@[simp] theorem State.afterPush_ret (s : State) (q : Queue) (b : Byte) : (s.afterPush q b).ret = .bool true := rfl

@[simp] theorem State.afterPop_ret (s : State) (q : Queue) (x : Byte) : (s.afterPop q x).ret = .byte (some x) := rfl

section
variable {s : State} {q : Queue}

theorem pushAtomic_full (hf : s.isFull q = true) (b : Byte) : pushAtomic q b s = .next (s.withRet (.bool false)) :=
  if_pos hf

theorem pushAtomic_room (hs : s.wf) (hf : s.isFull q = false) (b : Byte) :
    pushAtomic q b s = .next (s.afterPush q b) := by
  rw [pushAtomic, if_neg (by simp [hf]), writeSlot_eq b (hs.wr_lt q), andThen_next]
  simp [State.setWr, State.afterPush]

theorem popAtomic_empty (he : s.isEmpty q = true) : popAtomic q s = .ok (none, s) := if_pos he

theorem popAtomic_byte {x : Byte} (he : s.isEmpty q = false) (hx : readSlot q (s.ring q).rd s = .ok x) :
    popAtomic q s = .ok (some x, s.setRd q (nextIndex (s.capacity q) (s.ring q).rd)) := by
  simp only [popAtomic, he, Bool.false_eq_true, if_false, hx]

theorem exec_rbPush_full (hrest : s.atRest) (hf : s.isFull q = true) (b : Byte) :
    exec (.rbPush q b) s = .next (s.withRet (.bool false)) := by
  obtain ⟨c, _ | _⟩ := q
  · exact pushAtomic_full hf b
  · exact byMain_of_turns hrest (runTurns_rbPush_full hrest.run hrest.env hf b [])

theorem exec_rbPush_room (hs : s.wf) (hrest : s.atRest) (hf : s.isFull q = false) (b : Byte) :
    exec (.rbPush q b) s = .next (s.afterPush q b) := by
  obtain ⟨c, _ | _⟩ := q
  · exact pushAtomic_room hs hf b
  · exact byMain_of_turns hrest (runTurns_rbPush hrest.run hrest.env hf (hs.wr_lt _) b [])

theorem exec_rbPop_empty (hrest : s.atRest) (he : s.isEmpty q = true) :
    exec (.rbPop q) s = .next (s.withRet (.byte none)) := by
  have hmain : byMain (.rbPop q) s = .next (s.withRet (.byte none)) :=
    byMain_of_turns hrest (runTurns_rbPop_empty hrest.run hrest.env he [])
  obtain ⟨c, _ | _⟩ := q
  · exact hmain
  · show (if s.ie then _ else _) = _
    rw [popAtomic_empty he, hmain, ite_self]

theorem exec_rbPop_byte {x : Byte} (hs : s.wf) (hrest : s.atRest) (he : s.isEmpty q = false)
    (hx : Memory.read (s.ring q).store (s.ring q).rd = some x) : exec (.rbPop q) s = .next (s.afterPop q x) := by
  have hread : readSlot q (s.ring q).rd s = .ok x := readSlot_ok.mpr ⟨hs.rd_lt q, hx⟩
  have hmain : byMain (.rbPop q) s = .next (s.afterPop q x) :=
    byMain_of_turns hrest (runTurns_rbPop hrest.run hrest.env he hread [])
  obtain ⟨c, _ | _⟩ := q
  · exact hmain
  · show (if s.ie then _ else _) = _
    rw [popAtomic_byte he hread, hmain]
    exact ite_self _

end

/-! ### What an operation does to the queue -/

/-- After `RB.PUSHD(q, b)` (40_ring_buffer R136). -/
def State.afterPushd (s : State) (q : Queue) (b : Byte) : State :=
  s.setRing q
    { store := Memory.write (s.ring q).store (s.ring q).wr b
      rd := if s.isFull q then nextIndex (s.capacity q) (s.ring q).rd else (s.ring q).rd
      wr := nextIndex (s.capacity q) (s.ring q).wr }

theorem nextIndex_ne {n i : Nat} (hn : 2 ≤ n) (hi : i < n) : nextIndex n i ≠ i := by
  rw [nextIndex_eq hi]
  split <;> omega

section
variable {s : State} {q : Queue} {bs : List Byte}

theorem exec_rbPushd (hs : s.wf) (b : Byte) : exec (.rbPushd q b) s = .next (s.afterPushd q b) :=
  pushDropOldest_eq b (hs.wr_lt q)

theorem State.holds.length_eq (h : s.holds q bs) : bs.length = s.count q := by
  simpa [State.queued] using (congrArg List.length h).symm

theorem State.holds_nil (h : (s.ring q).rd = (s.ring q).wr) : s.holds q [] := Ring.queue_empty h

theorem afterPush_holds (hs : s.wf) (h : s.holds q bs) (hf : s.isFull q = false) (b : Byte) :
    (s.afterPush q b).holds q (bs ++ [b]) := by
  have hne : nextIndex (s.capacity q) (s.ring q).wr ≠ (s.ring q).rd := by simpa [State.isFull] using hf
  calc (s.afterPush q b).queued q = s.queued q ++ [some b] :=
        (State.queued_setRing s q _).trans (Ring.queue_push (hs.rd_lt q) (hs.wr_lt q) hne b)
    _ = (bs ++ [b]).map some := by rw [h, List.map_append, List.map_singleton]

theorem afterPop_holds {x : Byte} (hs : s.wf) (h : s.holds q (x :: bs)) : (s.afterPop q x).holds q bs :=
  (State.queued_setRing s q _).trans (State.holds.read hs h).2.2

/-- A drop-oldest push into a full buffer is a push once the oldest byte has been dropped. -/
theorem afterPushd_holds_full {x : Byte} (hs : s.wf) (h : s.holds q (x :: bs)) (hf : s.isFull q = true) (b : Byte) :
    (s.afterPushd q b).holds q (bs ++ [b]) := by
  have hwr : nextIndex (s.capacity q) (s.ring q).wr = (s.ring q).rd := by simpa [State.isFull] using hf
  have hrd := nextIndex_ne (hs.capacity_ge q) (hs.rd_lt q)
  obtain ⟨_, _, hdropped⟩ := State.holds.read hs h
  have hpush := Ring.queue_push (r := ⟨(s.ring q).store, nextIndex (s.capacity q) (s.ring q).rd, (s.ring q).wr⟩)
    (nextIndex_lt _ (hs.capacity_pos q)) (hs.wr_lt q) (hwr ▸ hrd.symm) b
  calc (s.afterPushd q b).queued q = bs.map some ++ [some b] := by
        rw [State.afterPushd, State.queued_setRing, if_pos hf, hpush, hdropped]
    _ = (bs ++ [b]).map some := by rw [List.map_append, List.map_singleton]

theorem afterPushd_holds_room (hs : s.wf) (h : s.holds q bs) (hf : s.isFull q = false) (b : Byte) :
    (s.afterPushd q b).holds q (bs ++ [b]) := by
  rw [State.afterPushd, if_neg (by simp [hf])]
  exact afterPush_holds hs h hf b

/-- The queue after a drop-oldest push (40_ring_buffer R136). -/
theorem afterPushd_holds (hs : s.wf) (h : s.holds q bs) (b : Byte) :
    (s.afterPushd q b).holds q (if bs.length = s.capacity q - 1 then bs.tail ++ [b] else bs ++ [b]) := by
  have hfull := hs.isFull_iff q
  rw [← h.length_eq] at hfull
  split
  · rename_i hlen
    match bs with
    | [] =>
      have := hs.capacity_ge q
      simp only [List.length_nil] at hlen
      omega
    | x :: bs => exact afterPushd_holds_full hs h (hfull.mpr hlen) b
  · rename_i hlen
    exact afterPushd_holds_room hs h (by simpa using mt hfull.mp hlen) b

end

/-! ### Sequences of operations -/

/-- `MAIN` is between two operations, nothing is scheduled, and the bytes queued on `q` are `bs`. -/
structure State.RestsWith (s : State) (q : Queue) (bs : List Byte) : Prop where
  wf : s.wf
  rest : s.atRest
  holds : s.holds q bs

section
variable {s : State} {q : Queue} {bs : List Byte}

theorem State.RestsWith.keeps {t : State} (h : s.RestsWith q bs) (k : s.Keeps t) {bs' : List Byte} (ht : t.holds q bs')
    (run : t.run = s.run := by rfl) (main : t.main = s.main := by rfl) : t.RestsWith q bs' :=
  ⟨h.wf.keeps k, ⟨run.trans h.rest.run, main.trans h.rest.main, k.env.trans h.rest.env⟩, ht⟩

theorem afterPush_keeps (hs : s.wf) (hf : s.isFull q = false) (b : Byte) : s.Keeps (s.afterPush q b) :=
  (pushAtomic_event q b s _ (pushAtomic_room hs hf b)).keeps

theorem afterPushd_keeps (hs : s.wf) (b : Byte) : s.Keeps (s.afterPushd q b) :=
  (pushDropOldest_event q b s _ (exec_rbPushd hs b)).keeps

theorem State.RestsWith.afterPush (h : s.RestsWith q bs) (hf : s.isFull q = false) (b : Byte) :
    (s.afterPush q b).RestsWith q (bs ++ [b]) :=
  h.keeps (afterPush_keeps h.wf hf b) (afterPush_holds h.wf h.holds hf b)

theorem State.RestsWith.afterPop {x : Byte} (h : s.RestsWith q (x :: bs)) : (s.afterPop q x).RestsWith q bs :=
  h.keeps (afterPop_keeps q x s) (afterPop_holds h.wf h.holds)

theorem State.RestsWith.withRet (h : s.RestsWith q bs) (v : Ret) : (s.withRet v).RestsWith q bs :=
  h.keeps (.same .refl) h.holds

theorem runFifo_push_full (h : s.RestsWith q bs) (hf : s.isFull q = true) (b : Byte) (ops : List FifoOp) :
    runFifo q (.push b :: ops) s = none := by
  simp [runFifo, exec_rbPush_full h.rest hf]

theorem runFifo_push (h : s.RestsWith q bs) (hf : s.isFull q = false) (b : Byte) (ops : List FifoOp) :
    runFifo q (.push b :: ops) s =
      (runFifo q ops (s.afterPush q b)).map fun (pushed, popped, t) => (b :: pushed, popped, t) := by
  simp only [runFifo, exec_rbPush_room h.wf h.rest hf, State.afterPush_ret, if_true]
  cases runFifo q ops (s.afterPush q b) <;> rfl

theorem runFifo_pop_nil (h : s.RestsWith q []) (ops : List FifoOp) :
    runFifo q (.pop :: ops) s = runFifo q ops (s.withRet (.byte none)) := by
  have he : s.isEmpty q = true := (h.wf.isEmpty_iff q).mpr h.holds.length_eq.symm
  simp [runFifo, exec_rbPop_empty h.rest he]

theorem runFifo_pop_cons {x : Byte} (h : s.RestsWith q (x :: bs)) (ops : List FifoOp) :
    runFifo q (.pop :: ops) s =
      (runFifo q ops (s.afterPop q x)).map fun (pushed, popped, t) => (pushed, x :: popped, t) := by
  obtain ⟨hne, hx, _⟩ := State.holds.read h.wf h.holds
  have he : s.isEmpty q = false := by simpa [State.isEmpty] using hne
  simp only [runFifo, exec_rbPop_byte h.wf h.rest he hx, State.afterPop_ret]
  cases runFifo q ops (s.afterPop q x) <;> rfl

/-- The FIFO law from any queue: what was queued and then pushed is what was popped and then what is left. -/
theorem runFifo_order {ops : List FifoOp} {t : State} {pushed popped : List Byte} (h : s.RestsWith q bs)
    (hrun : runFifo q ops s = some (pushed, popped, t)) :
    ∃ left, bs ++ pushed = popped ++ left ∧ t.holds q left := by
  induction ops generalizing s bs pushed popped with
  | nil =>
    cases hrun
    exact ⟨bs, List.append_nil bs, h.holds⟩
  | cons op ops ih =>
    cases op with
    | push b =>
      cases hf : s.isFull q with
      | true =>
        rw [runFifo_push_full h hf] at hrun
        cases hrun
      | false =>
        rw [runFifo_push h hf, Option.map_eq_some_iff] at hrun
        obtain ⟨⟨pushed', popped', t'⟩, hops, heq⟩ := hrun
        cases heq
        obtain ⟨left, hleft, ht⟩ := ih (h.afterPush hf b) hops
        exact ⟨left, by rw [← hleft, List.append_assoc, List.singleton_append], ht⟩
    | pop =>
      cases bs with
      | nil =>
        rw [runFifo_pop_nil h] at hrun
        exact ih (h.withRet _) hrun
      | cons x bs =>
        rw [runFifo_pop_cons h, Option.map_eq_some_iff] at hrun
        obtain ⟨⟨pushed', popped', t'⟩, hops, heq⟩ := hrun
        cases heq
        obtain ⟨left, hleft, ht⟩ := ih h.afterPop hops
        exact ⟨left, congrArg (x :: ·) hleft, ht⟩

/-- Popping once for each queued byte gives the whole queue. -/
theorem runFifo_pop_all (h : s.RestsWith q bs) :
    ∃ u, runFifo q (List.replicate bs.length .pop) s = some ([], bs, u) := by
  induction bs generalizing s with
  | nil => exact ⟨s, rfl⟩
  | cons x bs ih =>
    obtain ⟨u, hu⟩ := ih h.afterPop
    exact ⟨u, by rw [List.length_cons, List.replicate_succ, runFifo_pop_cons h, hu, Option.map_some]⟩

end

/-! ### The obligations -/

/-- Settles O13: the two accesses read the indices the predicates compare; full is `N - 1` bytes by `State.wf.isFull_iff`. -/
theorem rbEmptyAndFullAnswer : Obligations.RbEmptyAndFullAnswer := by
  intro s q hs hrest
  refine ⟨exec_rbEmpty hrest, exec_rbFull hrest, ?_⟩
  rw [← hs.isFull_iff, State.isFull, beq_iff_eq, nextIndex]

/-- Settles O14: by the fill state, on either side of the buffer. -/
theorem rbPushStoresOrFails : Obligations.RbPushStoresOrFails := by
  intro s q b hs hrest
  split
  · rename_i hf
    exact exec_rbPush_full hrest (beq_iff_eq.mpr hf) b
  · rename_i hf
    exact exec_rbPush_room hs hrest (beq_eq_false_iff_ne.mpr hf) b

/-- Settles O15: by the fill state, on either side of the buffer. -/
theorem rbPopTakesOldest : Obligations.RbPopTakesOldest := fun _ _ hs hrest =>
  ⟨fun he => exec_rbPop_empty hrest (beq_iff_eq.mpr he),
    fun _ hne hx => exec_rbPop_byte hs hrest (beq_eq_false_iff_ne.mpr hne) hx⟩

/-- Settles O16: `afterPushd` is the stated state, with the queue `afterPushd_holds` gives. -/
theorem rbPushdDropsOldest : Obligations.RbPushdDropsOldest := by
  intro s q b bs hs hbs
  refine ⟨s.afterPushd q b, exec_rbPushd hs b, ?_, afterPushd_holds hs hbs b⟩
  simp only [State.afterPushd, State.isFull, beq_iff_eq, nextIndex]

/-- Settles O17: the law from any queue at the empty one, and, after a drop-oldest push, a queue that ends in its byte and is
popped to the end. -/
theorem fifoOrder : Obligations.FifoOrder := by
  constructor
  · intro q ops s t pushed popped hs hrest hempty hrun
    exact runFifo_order ⟨hs, hrest, State.holds_nil hempty⟩ hrun
  · intro c b bs s hs hrest hbs
    have hq := afterPushd_holds hs hbs b
    obtain ⟨u, hu⟩ := runFifo_pop_all (State.RestsWith.keeps ⟨hs, hrest, hbs⟩ (afterPushd_keeps hs b) hq)
    rw [hq.length_eq] at hu
    refine ⟨_, u, _, exec_rbPushd hs b, hu, ?_⟩
    split <;> exact List.getLast?_concat

end Sys2Proof.Machine
end

section
/-!
The handlers and the events of 41_channel (R152, R153, R156 to R158): what each answers, and that no turn of the schedule
strands a queued byte.
-/
namespace Sys2Proof.Machine

/-! ### Entry and return -/

/-- A handler that may start leaves what its body leaves, with no handler active again (60_exceptions R282). -/
theorem asHandler_eq {body : State → Res} {s t : State}
    (h : body { s with isrActive := true } = .next { t with isrActive := true }) (ht : t.isrActive = false) :
    asHandler body s = .next t := by
  rw [asHandler, h, andThen_next, ← ht]

theorem State.wf.interruptible {s : State} (hs : s.wf) (hi : s.ie = true) : s.interruptible = true := by
  simp [State.interruptible, hi, hs.isr]

/-! ### The transmitter -/

/-- Setting a flag that is set changes nothing (R158). -/
theorem txRdyEvent_eq (c : Channel) (s : State) : txRdyEvent c s = { s with txReady := s.txReady.set c true } := by
  unfold txRdyEvent
  split
  · rename_i hready
    rw [← hready, Four.set_get]
  · rfl

/-! ### The receive handler -/

/-- The receive handler is a drop-oldest push (R152). -/
theorem rxiHandler_eq {s : State} (hs : s.wf) (hi : s.ie = true) (c : Channel) (b : Byte) :
    rxiHandler c b s = .next (s.afterPushd (.rx c) b) :=
  (if_pos (hs.interruptible hi)).trans
    (asHandler_eq (pushDropOldest_eq (s := { s with isrActive := true }) b (hs.wr_lt (.rx c))) hs.isr)

/-! ### The transmit handler -/

/-- The oldest byte `x` of `tx[c]` taken off the buffer and put on the wire (R153). -/
def State.afterTxi (s : State) (c : Channel) (x : Byte) : State :=
  (s.setRd (.tx c) (nextIndex (s.capacity (.tx c)) (s.ring (.tx c)).rd)).afterWire c x

theorem afterTxi_at (c : Channel) (x : Byte) (s : State) (r : Ret) (ms : List Micro) :
    ((s.withRet r).setMain ms).afterTxi c x = ((s.afterTxi c x).withRet r).setMain ms := rfl

theorem afterTxi_ring (c : Channel) (x : Byte) (s : State) : (s.afterTxi c x).ring (.tx c) =
    { s.ring (.tx c) with rd := nextIndex (s.capacity (.tx c)) (s.ring (.tx c)).rd } :=
  State.ring_setRd s (.tx c) _

theorem afterTxi_keeps (c : Channel) (x : Byte) (s : State) (hready : s.txReady.get c = true) :
    s.Keeps (s.afterTxi c x) :=
  (State.Keeps.refl.setRd (nextIndex_lt _)).trans (.wire_next (wire_eq x hready))

theorem afterTxi_holds {s : State} {c : Channel} {x : Byte} {bs : List Byte} (hs : s.wf) (h : s.holds (.tx c) (x :: bs)) :
    (s.afterTxi c x).holds (.tx c) bs :=
  (State.queued_setRing s _ _).trans (State.holds.read hs h).2.2

section
variable {s t : State} {c : Channel}

theorem txiHandler_started (hs : s.wf) (hi : s.ie = true) (hen : s.txIrqEn.get c = true)
    (hready : s.txReady.get c = true) : txiHandler c s = asHandler (txiBody c) s :=
  if_pos (by simp [hs.interruptible hi, State.txiPending, hen, hready])

theorem txiBody_empty (he : s.isEmpty (.tx c) = true) : txiBody c s = .next (s.setIrqEn c false) := by
  rw [txiBody, popAtomic_empty he]

theorem txiBody_sends {x : Byte} (he : s.isEmpty (.tx c) = false) (hx : readSlot (.tx c) (s.ring (.tx c)).rd s = .ok x)
    (hready : s.txReady.get c = true) : txiBody c s = .next (s.afterTxi c x) := by
  rw [txiBody, popAtomic_byte he hx]
  exact wire_eq x hready

theorem txiHandler_empty (hs : s.wf) (hi : s.ie = true) (hen : s.txIrqEn.get c = true) (hready : s.txReady.get c = true)
    (he : s.isEmpty (.tx c) = true) : txiHandler c s = .next (s.setIrqEn c false) :=
  (txiHandler_started hs hi hen hready).trans
    (asHandler_eq (txiBody_empty (c := c) (s := { s with isrActive := true }) he) hs.isr)

theorem txiHandler_sends {x : Byte} (hs : s.wf) (hi : s.ie = true) (hen : s.txIrqEn.get c = true)
    (hready : s.txReady.get c = true) (he : s.isEmpty (.tx c) = false)
    (hx : Memory.read (s.ring (.tx c)).store (s.ring (.tx c)).rd = some x) :
    txiHandler c s = .next (s.afterTxi c x) :=
  (txiHandler_started hs hi hen hready).trans
    (asHandler_eq (txiBody_sends (c := c) (s := { s with isrActive := true }) he
      (readSlot_ok.mpr ⟨hs.rd_lt (.tx c), hx⟩) hready) hs.isr)

/-- Everything the body of the transmit handler can do. -/
theorem txiBody_cases (c : Channel) (s : State) :
    Res.All (txiBody c s) fun t => (s.isEmpty (.tx c) = true ∧ t = s.setIrqEn c false) ∨ ∃ x, t = s.afterTxi c x := by
  unfold txiBody
  split
  · rename_i x u hpop
    intro t ht
    obtain ⟨_, rfl⟩ := wire_next ht
    obtain ⟨hx, _⟩ | ⟨y, hx, _, _, rfl⟩ := popAtomic_ok hpop
    · cases hx
    · exact .inr ⟨x, rfl⟩
  · rename_i u hpop
    obtain ⟨_, rfl, he⟩ | ⟨y, hx, _⟩ := popAtomic_ok hpop
    · exact Res.all_next (.inl ⟨he, rfl⟩)
    · cases hx
  · exact Res.all_fault _

end

/-! ### Stranded bytes -/

/-- Bytes queued on `tx[c]` have their interrupt enabled (R156). -/
def State.unstranded (c : Channel) (s : State) : Prop := s.count (.tx c) = 0 ∨ s.txIrqEn.get c = true

/-- A turn that is neither a reset nor a transmit handler touches no transmit buffer and no enable. -/
theorem deliver_tx {e : Turn} (hreset : e ≠ .reset) (htxi : ∀ d, e ≠ .txi d) (s : State) :
    Res.All (deliver e s) fun t => t.tx = s.tx ∧ t.txIrqEn = s.txIrqEn := by
  have hidle : Res.All (.next s) fun t => t.tx = s.tx ∧ t.txIrqEn = s.txIrqEn := Res.all_next ⟨rfl, rfl⟩
  cases e with
  | main => exact hidle
  | rxByte c b =>
    refine Res.all_ite (fun _ t ht => ?_) fun _ => hidle
    obtain ⟨u, hu, rfl⟩ := asHandler_next ht
    obtain ⟨_, rfl⟩ := pushDropOldest_next hu
    exact ⟨rfl, rfl⟩
  | txRdy c =>
    refine Res.all_next ?_
    rw [txRdyEvent_eq]
    exact ⟨rfl, rfl⟩
  | txi d => exact absurd rfl (htxi d)
  | tick => exact Res.all_ite (fun _ => Res.all_next ⟨rfl, rfl⟩) fun _ => hidle
  | pin p v => exact Res.all_next ⟨rfl, rfl⟩
  | reset => exact absurd rfl hreset

section
variable {s t : State} {c : Channel}

theorem State.unstranded.same (h : s.unstranded c) (cfg : t.cfg = s.cfg) (tx : t.tx.get c = s.tx.get c)
    (irq : t.txIrqEn.get c = s.txIrqEn.get c) : t.unstranded c := by
  have hring : t.ring (.tx c) = s.ring (.tx c) := tx
  simpa only [State.unstranded, State.count, State.capacity, hring, cfg, irq] using h

/-- The transmit handler of any channel disables an interrupt only on an empty buffer. -/
theorem txiHandler_unstranded (d : Channel) (hs : s.wf) (h : s.unstranded c) :
    Res.All (txiHandler d s) (State.unstranded c) := by
  refine Res.all_ite (fun hmay t ht => ?_) fun _ => Res.all_next h
  obtain ⟨u, hu, rfl⟩ := asHandler_next ht
  have hen : s.txIrqEn.get d = true := by simp_all [State.txiPending]
  by_cases hcd : c = d
  · subst hcd
    obtain ⟨he, rfl⟩ | ⟨x, rfl⟩ := txiBody_cases c _ u hu
    · exact .inl ((hs.isEmpty_iff (.tx c)).mp he)
    · exact .inr hen
  · obtain ⟨_, rfl⟩ | ⟨x, rfl⟩ := txiBody_cases d _ u hu
    · exact h.same rfl rfl (Four.get_set_ne _ _ hcd)
    · exact h.same rfl (Four.get_set_ne _ _ hcd) rfl

end

/-! ### The obligations -/

/-- Settles O20: handler and event are one function, a drop-oldest push. -/
theorem receiveInterruptQueuesByte : Obligations.ReceiveInterruptQueuesByte := by
  intro s c b hs hi
  refine ⟨s.afterPushd (.rx c) b, rxiHandler_eq hs hi c b, rxiHandler_eq hs hi c b, ?_⟩
  simp only [State.afterPushd, State.isFull, beq_iff_eq, nextIndex]

/-- Settles O22: by the fill state of the buffer. -/
theorem transmitInterruptSendsOrDisables : Obligations.TransmitInterruptSendsOrDisables :=
  fun _ _ hs hi hen hready =>
    ⟨fun he => txiHandler_empty hs hi hen hready (beq_iff_eq.mpr he),
      fun _ hne hx => txiHandler_sends hs hi hen hready (beq_eq_false_iff_ne.mpr hne) hx⟩

/-- Settles O27: only a transmit handler touches a transmit buffer or an enable. -/
theorem handlersNeverStrandQueuedBytes : Obligations.HandlersNeverStrandQueuedBytes := by
  intro e s t c hs he ht h
  by_cases htxi : ∃ d, e = .txi d
  · obtain ⟨d, rfl⟩ := htxi
    exact txiHandler_unstranded d hs h t ht
  · obtain ⟨htx, hirq⟩ := deliver_tx he (fun d hd => htxi ⟨d, hd⟩) s t ht
    exact State.unstranded.same h (deliver_event he s t ht).keeps.cfg (by rw [htx]) (by rw [hirq])

/-- Settles O28: by `txRdyEvent_eq`. -/
theorem transmitterReadyEvent : Obligations.TransmitterReadyEvent := fun s c => congrArg _ (txRdyEvent_eq c s)

end Sys2Proof.Machine
end

section
/-!
The queued path of `CH.TX`, `I = 1` (41_channel R154): what a queued transmit leaves, the wait on a full buffer, and how the
transmit handler ends that wait.
-/
namespace Sys2Proof.Machine

/-! ### Runs of one operation -/

/-- An operation that `MAIN` brings to its end or to a wait in `k` turns, those of the schedule counted, leaves what those
leave. -/
theorem byMain_of_settled {i : Instr} {s t : State} (hrun : s.run = .running) (hmain : s.main = []) {k : Nat}
    (h : ∀ n, runTurns (n + k) (s.setMain [.call i]) = runTurns n t) (hk : k ≤ 1000 * (s.env.length + 1))
    (ht : t.settled = true) : byMain i s = .next t := by
  obtain ⟨n, hn⟩ : ∃ n, (s.setMain [.call i]).budget = n + k :=
    ⟨(s.setMain [.call i]).budget - k, by simp only [State.budget, State.setMain_env]; omega⟩
  rw [byMain, if_pos hrun, hmain, List.nil_append, runMain, hn, h, runTurns_settled ht]

/-- With turns in the schedule, a running `MAIN` inside an operation is not settled, waiting or not. -/
theorem not_settled {s : State} (hrun : s.run = .running) (hmain : s.main ≠ []) (henv : s.env ≠ []) :
    s.settled = false := by
  simp [State.settled, State.idle, hrun, hmain, henv]

/-- A turn of the schedule, or one it leaves to `MAIN`. -/
theorem runTurns_turn {s t : State} (hrun : s.run = .running) (hmain : s.main ≠ []) (henv : s.env ≠ [])
    (h : turn s = .next t) (k : Nat) : runTurns (k + 1) s = runTurns k t := by
  rw [runTurns_succ (not_settled hrun hmain henv), h, andThen_next]

/-! ### What a queued transmit leaves -/

section
variable {s : State} {c : Channel}

theorem afterEmit_ring_ne {q : Queue} (h : q ≠ .tx c) (b : Byte) (s : State) : (afterEmit c b s).ring q = s.ring q :=
  State.ring_setRing_ne s _ h

theorem afterEmitAll_ring_ne {q : Queue} (h : q ≠ .tx c) (bs : List Byte) (s : State) :
    (afterEmitAll c bs s).ring q = s.ring q := by
  induction bs generalizing s with
  | nil => rfl
  | cons b bs ih => exact (ih _).trans (afterEmit_ring_ne h b s)

/-- However many bytes are queued, the interrupt is enabled. -/
theorem afterEmitAll_txIrqEn (b : Byte) (bs : List Byte) (s : State) :
    (afterEmitAll c (b :: bs) s).txIrqEn = s.txIrqEn.set c true := by
  induction bs generalizing b s with
  | nil => rfl
  | cons b' bs ih => exact (ih b' (afterEmit c b s)).trans (Four.set_set _ _ _ _)

theorem State.wf.afterEmitAll (hs : s.wf) (c : Channel) (bs : List Byte) : (afterEmitAll c bs s).wf := by
  induction bs generalizing s with
  | nil => exact hs
  | cons b bs ih => exact ih (hs.afterEmit c b)

/-- Room for one more byte. -/
theorem State.wf.not_full (hs : s.wf) {n : Nat} (h : s.room c (n + 1)) : s.isFull (.tx c) = false := by
  have hfull := hs.isFull_iff (.tx c)
  rw [← Bool.not_eq_true, hfull]
  omega

/-- With room for all of them, the bytes come behind the queue in order. -/
theorem afterEmitAll_holds {bs more : List Byte} (hs : s.wf) (h : s.holds (.tx c) bs) (hroom : s.room c more.length) :
    (afterEmitAll c more s).holds (.tx c) (bs ++ more) := by
  induction more generalizing s bs with
  | nil => rwa [List.append_nil]
  | cons b more ih =>
    have hstored := afterEmit_holds hs h (hs.not_full hroom) b
    have hleft : (afterEmit c b s).room c more.length := by
      have hcount := hstored.length_eq
      rw [List.length_append, List.length_singleton, h.length_eq] at hcount
      rw [State.room, ← hcount]
      show _ < s.capacity (.tx c)
      rw [List.length_cons, State.room] at hroom
      omega
    simpa [afterEmitAll] using ih (hs.afterEmit c b) hstored hleft

end

/-! ### The wait on a full buffer -/

/-- The positions of `CH.TX` up to the test of the buffer (R154 t0, t1), `wr` being `w`, with the value last returned: what
`MAIN` goes round while the buffer is full. -/
inductive TxTest (c : Channel) (b : Byte) (w : Nat) : List Micro → Ret → Prop
  | start (r : Ret) : TxTest c b w [emit c b] r
  | wait (r : Ret) : TxTest c b w [.txWait c b] r
  | readWr (r : Ret) : TxTest c b w [.call (.rbFull (.tx c)), .txWaited c b] r
  | readRd (r : Ret) : TxTest c b w [.fullRd (.tx c) w, .txWaited c b] r
  | wasFull : TxTest c b w [.txWaited c b] (.bool true)

section
variable {s : State} {c : Channel} {b : Byte} {ms : List Micro} {r : Ret}

theorem TxTest.ne_nil {w : Nat} (h : TxTest c b w ms r) : ms ≠ [] := by
  cases h <;> exact List.cons_ne_nil _ _

/-- While the buffer is full, an access leaves `MAIN` before the test. -/
theorem TxTest.mainAccess (hi : s.ie = true) (hf : s.isFull (.tx c) = true)
    (h : TxTest c b (s.ring (.tx c)).wr ms r) :
    ∃ ms' r', TxTest c b (s.ring (.tx c)).wr ms' r' ∧
      mainAccess ((s.withRet r).setMain ms) = .next ((s.withRet r').setMain ms') := by
  cases h with
  | start => exact ⟨_, r, .wait r, if_pos hi⟩
  | wait => exact ⟨_, r, .readWr r, rfl⟩
  | readWr => exact ⟨_, r, .readRd r, rfl⟩
  | readRd => exact ⟨_, .bool true, .wasFull, by rw [← hf]; rfl⟩
  | wasFull => exact ⟨_, .bool true, .wait _, rfl⟩

/-- Any number of accesses scheduled while the buffer is full. -/
theorem TxTest.runTurns (hrun : s.run = .running) (hi : s.ie = true) (hf : s.isFull (.tx c) = true) {es : List Turn}
    {n : Nat} (henv : s.env = List.replicate n .main ++ es) (h : TxTest c b (s.ring (.tx c)).wr ms r) :
    ∃ ms' r', TxTest c b (s.ring (.tx c)).wr ms' r' ∧
      ∀ k, runTurns (k + n) ((s.withRet r).setMain ms) = Machine.runTurns k (((s.setEnv es).withRet r').setMain ms') := by
  induction n generalizing s ms r with
  | zero =>
    refine ⟨ms, r, h, fun k => ?_⟩
    rw [List.replicate_zero, List.nil_append] at henv
    rw [← henv]
    rfl
  | succ n ih =>
    obtain ⟨ms', r', h', hacc⟩ := h.mainAccess (s := s.setEnv (List.replicate n .main ++ es)) hi hf
    obtain ⟨ms'', r'', h'', hrest⟩ := ih (s := s.setEnv (List.replicate n .main ++ es)) hrun hi hf rfl h'
    have henv' : ((s.withRet r).setMain ms).env = .main :: (List.replicate n .main ++ es) := henv
    have hturn : turn ((s.withRet r).setMain ms) =
        .next (((s.setEnv (List.replicate n .main ++ es)).withRet r').setMain ms') := by
      unfold turn
      rw [henv']
      exact hacc
    refine ⟨ms'', r'', h'', fun k => ?_⟩
    rw [← Nat.add_assoc]
    exact (runTurns_turn (s := (s.withRet r).setMain ms) hrun h.ne_nil (henv' ▸ List.cons_ne_nil _ _) hturn _).trans
      (hrest k)

/-- With room and no turn left in the schedule, `MAIN` goes from the test to the end of `CH.TX`: each position is on the way
of `runTurns_emit`. -/
theorem TxTest.completes (hrun : s.run = .running) (henv : s.env = []) (hi : s.ie = true)
    (hf : s.isFull (.tx c) = false) (hw : (s.ring (.tx c)).wr < s.capacity (.tx c))
    (h : TxTest c b (s.ring (.tx c)).wr ms r) :
    ∃ k ≤ 10, ∀ n, Machine.runTurns (n + k) ((s.withRet r).setMain ms) =
      Machine.runTurns n ((afterEmit c b s).setMain []) := by
  have hstart (r : Ret) (n : Nat) :
      Machine.runTurns (n + 10) ((s.withRet r).setMain [emit c b]) = Machine.runTurns n ((afterEmit c b s).setMain []) :=
    runTurns_emit (s := s.withRet r) hrun henv hi hf hw b [] n
  have hwait (r : Ret) (n : Nat) :
      Machine.runTurns (n + 9) ((s.withRet r).setMain [.txWait c b]) =
        Machine.runTurns n ((afterEmit c b s).setMain []) := by
    rw [← hstart r, show n + 10 = (n + 9) + 1 from rfl, runTurns_call (s := s.withRet r) hrun henv,
      show callInstr (.chTx c b) ((s.withRet r).setMain []) = .next ((s.withRet r).setMain [.txWait c b]) from if_pos hi,
      andThen_next]
  have hreadWr (r : Ret) (n : Nat) :
      Machine.runTurns (n + 8) ((s.withRet r).setMain [.call (.rbFull (.tx c)), .txWaited c b]) =
        Machine.runTurns n ((afterEmit c b s).setMain []) := by
    rw [← hwait r]
    exact (runTurns_access (s := s.withRet r) hrun henv (.txWait c b) [] hf (n + 8)).symm
  cases h with
  | start => exact ⟨10, by decide, hstart r⟩
  | wait => exact ⟨9, by decide, hwait r⟩
  | readWr => exact ⟨8, by decide, hreadWr r⟩
  | readRd =>
    refine ⟨7, by decide, fun n => ?_⟩
    rw [← hreadWr r]
    exact (runTurns_call (s := s.withRet r) hrun henv (.rbFull (.tx c)) [.txWaited c b] (n + 7)).symm
  | wasFull =>
    refine ⟨10, by decide, fun n => ?_⟩
    rw [← hwait (.bool true)]
    exact runTurns_access (s := s.withRet (.bool true)) hrun henv (.txWaited c b) [] rfl (n + 9)

end

/-- The transmit handler's turn, wherever `MAIN` stands inside an operation. -/
theorem runTurns_txi {s : State} {c : Channel} {x : Byte} (hs : s.wf) (hrun : s.run = .running) (hi : s.ie = true)
    (hen : s.txIrqEn.get c = true) (hready : s.txReady.get c = true) (he : s.isEmpty (.tx c) = false)
    (hx : Memory.read (s.ring (.tx c)).store (s.ring (.tx c)).rd = some x) (es : List Turn) (r : Ret) {ms : List Micro}
    (hms : ms ≠ []) (k : Nat) :
    runTurns (k + 1) (((s.setEnv (.txi c :: es)).withRet r).setMain ms) =
      runTurns k ((((s.setEnv es).afterTxi c x).withRet r).setMain ms) := by
  have hat : (((s.setEnv es).withRet r).setMain ms).wf := ⟨hs.cfg, hs.rings, hs.lines, hs.mask, hs.last, hs.pins, hs.isr⟩
  have hsent := txiHandler_sends hat hi hen hready he hx
  rw [afterTxi_at] at hsent
  exact runTurns_turn (s := ((s.setEnv (.txi c :: es)).withRet r).setMain ms) hrun hms (List.cons_ne_nil _ _) hsent k

/-! ### `CH.TX` alone, `I = 1` -/

section
variable {s : State} {c : Channel} (hrest : s.atRest) (hi : s.ie = true) (b : Byte)
include hrest hi

theorem exec_chTx_room (hf : s.isFull (.tx c) = false) (hw : (s.ring (.tx c)).wr < s.capacity (.tx c)) :
    exec (.chTx c b) s = .next (afterEmit c b s) :=
  byMain_of_turns hrest (runTurns_emit hrest.run hrest.env hi hf hw b [])

/-- On a full buffer `MAIN` stands at t1. -/
theorem exec_chTx_waits (hf : s.isFull (.tx c) = true) : exec (.chTx c b) s = .next (s.setMain [.txWait c b]) := by
  refine byMain_of_settled hrest.run hrest.main (k := 1) (fun n => ?_) (by omega) ?_
  · rw [runTurns_call hrest.run hrest.env,
      show callInstr (.chTx c b) (s.setMain []) = .next (s.setMain [.txWait c b]) from if_pos hi, andThen_next]
  · simp [State.settled, State.waiting, hrest.env, hf]

end

/-! ### The obligations -/

/-- Settles O47: byte by byte, each push finding room. -/
theorem emittedBytesQueueInOrder : Obligations.EmittedBytesQueueInOrder := by
  intro s c bs more hs h hroom hne
  obtain ⟨b, more, rfl⟩ := List.exists_cons_of_ne_nil hne
  exact ⟨afterEmitAll_holds hs h hroom, afterEmitAll_txIrqEn b more s, fun _ hq => afterEmitAll_ring_ne hq _ s,
    hs.afterEmitAll c _⟩

/-- Settles O23: by the fill state of the buffer. -/
theorem transmitQueuesOrWaits : Obligations.TransmitQueuesOrWaits :=
  fun _ _ b hs hrest hi =>
    ⟨fun hf => exec_chTx_room hrest hi b (beq_eq_false_iff_ne.mpr hf) (hs.wr_lt _),
      fun hf => exec_chTx_waits hrest hi b (beq_iff_eq.mpr hf)⟩

/-- Settles O24: `MAIN` goes round the test until the handler has freed a slot, and from wherever it stands then to the
end. -/
theorem backpressureIsLiftedByTransmitInterrupt : Obligations.BackpressureIsLiftedByTransmitInterrupt := by
  intro s c b x bs n hs hrun hmain hi henv hen hready hholds hlen
  have hcount := hholds.length_eq
  rw [List.length_cons] at hcount
  have hfull : s.isFull (.tx c) = true := (hs.isFull_iff _).mpr (by omega)
  obtain ⟨hne, hx, _⟩ := State.holds.read hs hholds
  have he : s.isEmpty (.tx c) = false := beq_eq_false_iff_ne.mpr hne
  obtain ⟨ms, r, hpos, htest⟩ :=
    (TxTest.start (c := c) (b := b) (w := (s.ring (.tx c)).wr) s.ret).runTurns hrun hi hfull henv
  -- the state once the handler has run, but for where `MAIN` stands
  have hidle : (s.setEnv []).wf := hs.readied (.setEnv List.nil_suffix)
  have hu : ((s.setEnv []).afterTxi c x).wf := hidle.keeps (afterTxi_keeps c x _ hready)
  have hubs : ((s.setEnv []).afterTxi c x).holds (.tx c) bs := afterTxi_holds hidle hholds
  have huroom : ((s.setEnv []).afterTxi c x).isFull (.tx c) = false := by
    refine hu.not_full (n := 0) ?_
    rw [State.room, ← hubs.length_eq]
    show _ < s.capacity (.tx c)
    omega
  have hwr : (((s.setEnv []).afterTxi c x).ring (.tx c)).wr = (s.ring (.tx c)).wr := by
    rw [afterTxi_ring]
    rfl
  obtain ⟨k, hk, hend⟩ := (hwr ▸ hpos).completes (s := (s.setEnv []).afterTxi c x) hrun rfl hi huroom (hu.wr_lt _)
  refine ⟨(afterEmit c b ((s.setEnv []).afterTxi c x)).setMain [], ?_, rfl, afterEmit_holds hu hubs huroom b, ?_, ?_⟩
  · refine byMain_of_settled hrun hmain (k := k + 1 + n) (fun m => ?_) ?_ (settled_of_done rfl)
    · have hself : s.setMain [.call (.chTx c b)] = (s.withRet s.ret).setMain [emit c b] := rfl
      rw [← Nat.add_assoc, ← Nat.add_assoc, hself, htest, runTurns_txi hs hrun hi hen hready he hx [] r hpos.ne_nil, hend]
    · rw [henv, List.length_append, List.length_replicate]
      omega
  · exact Four.get_set_same _ _ _
  · exact Four.get_set_same _ _ _

end Sys2Proof.Machine
end

section
/-!
The synchronous path of one channel, `I = 0` (41_channel R154 u1 to u3, R155), under a schedule: while no handler may start,
the environment changes no more than the schedule, the transmitter-ready flags and the pins. `MaskedPath` follows `MAIN`
through its accesses past whatever the environment does to those; it is read once for every schedule without a reset and
once for the schedule that makes the transmitter ready before each access.
-/
namespace Sys2Proof.Machine

/-! ### What the environment may change -/

/-- The state `s` with what the environment may change while `I = 0`: schedule, transmitter-ready flags and pins. -/
def State.amid (s : State) (es : List Turn) (r : Four Bool) (ps : List Byte) : State :=
  { s with env := es, txReady := r, pinIn := ps }

/-- With `I = 0` a turn other than a reset raises transmitter-ready flags and moves pins at most (60_exceptions R281). -/
theorem deliver_masked {e : Turn} {s : State} (he : e ≠ .reset) (hi : s.ie = false) (es : List Turn) (r : Four Bool)
    (ps : List Byte) (ms : List Micro) :
    ∃ r' ps', (∀ c, r.get c = true → r'.get c = true) ∧
      deliver e ((s.amid es r ps).setMain ms) = .next ((s.amid es r' ps').setMain ms) := by
  have hint : ((s.amid es r ps).setMain ms).interruptible = false := by
    show (s.ie && _) = false
    rw [hi, Bool.false_and]
  cases e with
  | main => exact ⟨r, ps, fun _ h => h, rfl⟩
  | rxByte c b => exact ⟨r, ps, fun _ h => h, if_neg (by simp [hint])⟩
  | txRdy c =>
    refine ⟨r.set c true, ps, fun d h => ?_, congrArg _ (txRdyEvent_eq c _)⟩
    rw [Four.get_set, h, ite_self]
  | txi c => exact ⟨r, ps, fun _ h => h, if_neg (by simp [hint])⟩
  | tick => exact ⟨r, ps, fun _ h => h, if_neg (by simp [hint])⟩
  | pin p v => exact ⟨r, ps.set p v, fun _ h => h, rfl⟩
  | reset => exact absurd rfl he

/-! ### Paths -/

/-- The transmitter of `c` has become ready. -/
def State.readied (s : State) (c : Channel) : State := { s with txReady := s.txReady.set c true }

/-- `MAIN`, running with `I = 0`, does `ms` from `s` in `k` accesses, waits not counted, and ends in a state that meets `Q`,
whatever the environment changes in between. `s.txReady.get c` says that the transmitter has been found ready since it was
last written. -/
inductive MaskedPath (c : Channel) (Q : State → Prop) : List Micro → State → Nat → Prop
  | done {s : State} (h : Q s) : MaskedPath c Q [] s 0
  | step {s s' : State} {m : Micro} {rest ms : List Micro} {k : Nat} (hrun : s.run = .running) (hi : s.ie = false)
      (next : MaskedPath c Q ms s' k)
      (h : ∀ es r ps, access m ((s.amid es r ps).setMain rest) = .next ((s'.amid es r ps).setMain ms))
      (hready : s'.txReady = s.txReady := by rfl) : MaskedPath c Q (m :: rest) s (k + 1)
  | wait {s : State} {rest : List Micro} {k : Nat} (hrun : s.run = .running) (hi : s.ie = false)
      (next : MaskedPath c Q (.call (.rbPop (.tx c)) :: .drainSend c :: rest) (s.readied c) k) :
      MaskedPath c Q (.drainWait c :: rest) s (k + 1)
  | send {s : State} {x : Byte} {rest : List Micro} {k : Nat} (hrun : s.run = .running) (hi : s.ie = false)
      (hret : s.ret = .byte (some x)) (hready : s.txReady.get c = true)
      (next : MaskedPath c Q (.drainLoop c :: rest) (s.afterWire c x) k) : MaskedPath c Q (.drainSend c :: rest) s (k + 1)

section
variable {c : Channel} {Q : State → Prop} {s : State} {m : Micro} {ms rest : List Micro} {k : Nat}

theorem MaskedPath.masked (h : MaskedPath c Q (m :: rest) s k) : s.run = .running ∧ s.ie = false := by
  cases h <;> exact ⟨‹_›, ‹_›⟩

theorem MaskedPath.nil (h : MaskedPath c Q [] s k) : Q s ∧ k = 0 := by
  cases h
  exact ⟨‹_›, rfl⟩

/-- An access on a path leads along it, or leaves `MAIN` at its wait; it leads along it where the transmitter is ready. -/
theorem MaskedPath.access_next (h : MaskedPath c Q (m :: rest) s k) (es : List Turn) {r : Four Bool} (ps : List Byte)
    (hr : s.txReady.get c = true → r.get c = true) :
    ∃ ms' s' k' r', MaskedPath c Q ms' s' k' ∧
      access m ((s.amid es r ps).setMain rest) = .next ((s'.amid es r' ps).setMain ms') ∧
      (s'.txReady.get c = true → r'.get c = true) ∧ (r.get c = true → k = k' + 1 ∧ ∃ v, r' = r.set c v) := by
  have hsame : ∃ v, r = r.set c v := ⟨r.get c, (Four.set_get r c).symm⟩
  cases h with
  | step _ _ next h hready => exact ⟨_, _, _, r, next, h es r ps, hready ▸ hr, fun _ => ⟨rfl, hsame⟩⟩
  | wait hrun hi next =>
    by_cases hready : r.get c = true
    · exact ⟨_, _, _, r, next, if_pos hready, fun _ => hready, fun _ => ⟨rfl, hsame⟩⟩
    · exact ⟨_, _, _, r, .wait hrun hi next, if_neg hready, hr, fun h => absurd h hready⟩
  | send _ _ hret hready next =>
    refine ⟨_, _, _, r.set c false, next, access_drainSend hret (hr hready), fun h => ?_, fun _ => ⟨rfl, false, rfl⟩⟩
    exact absurd ((Four.get_set_same _ c false).symm.trans h) (by decide)

/-- Under any schedule without a reset: if `MAIN` comes to the end, it is the end of the path. -/
theorem MaskedPath.ends {n : Nat} {es : List Turn} {r : Four Bool} {ps : List Byte} {t : State}
    (h : MaskedPath c Q ms s k) (hes : ∀ e ∈ es, e ≠ .reset) (hr : s.txReady.get c = true → r.get c = true)
    (ht : runTurns n ((s.amid es r ps).setMain ms) = .next t) (hdone : t.main = []) :
    ∃ u es' r' ps', Q u ∧ t = (u.amid es' r' ps').setMain [] := by
  induction n generalizing ms s k es r ps with
  | zero =>
    obtain rfl := Host.Outcome.next.inj ht
    obtain rfl : ms = [] := hdone
    exact ⟨s, es, r, ps, h.nil.1, rfl⟩
  | succ n ih =>
    cases ms with
    | nil =>
      rw [runTurns_settled (settled_of_done rfl)] at ht
      exact ⟨s, es, r, ps, h.nil.1, (Host.Outcome.next.inj ht).symm⟩
    | cons m rest =>
      by_cases hset : ((s.amid es r ps).setMain (m :: rest)).settled = true
      · rw [runTurns_settled hset] at ht
        obtain rfl := Host.Outcome.next.inj ht
        cases hdone
      · rw [runTurns_succ (by simpa using hset)] at ht
        obtain ⟨u, hu, ht⟩ := andThen_eq_next.mp ht
        have hmain (es' : List Turn) (hes' : ∀ e ∈ es', e ≠ .reset)
            (hacc : access m ((s.amid es' r ps).setMain rest) = .next u) :
            ∃ u es' r' ps', Q u ∧ t = (u.amid es' r' ps').setMain [] := by
          obtain ⟨ms', s', k', r', next, hstep, hr', _⟩ := h.access_next es' ps hr
          obtain rfl := Host.Outcome.next.inj (hacc.symm.trans hstep)
          exact ih next hes' hr' ht
        rcases turn_next hu with ⟨henv, hacc⟩ | ⟨es', henv, hacc⟩ | ⟨e, es', henv, _, hdel⟩
        · exact hmain es hes hacc
        · obtain rfl : es = .main :: es' := henv
          exact hmain es' (fun e he => hes e (List.mem_cons_of_mem _ he)) hacc
        · obtain rfl : es = e :: es' := henv
          obtain ⟨r', ps', hmono, hstep⟩ :=
            deliver_masked (hes e List.mem_cons_self) h.masked.2 es' r ps (m :: rest)
          obtain rfl := Host.Outcome.next.inj (hdel.symm.trans hstep)
          exact ih h (fun e he => hes e (List.mem_cons_of_mem _ he)) (fun hs => hmono c (hr hs)) ht

/-- Two turns of the schedule of R158's fairness: the transmitter becomes ready, and `MAIN` takes an access. -/
theorem runTurns_readySchedule (hrun : s.run = .running) (j : Nat) (r : Four Bool) (ps : List Byte) (n : Nat) :
    runTurns (n + 2) ((s.amid (readySchedule c (j + 1)) r ps).setMain (m :: rest)) =
      andThen (access m ((s.amid (readySchedule c j) (r.set c true) ps).setMain rest)) (runTurns n) := by
  have hready : turn ((s.amid (readySchedule c (j + 1)) r ps).setMain (m :: rest)) =
      .next ((s.amid (.main :: readySchedule c j) (r.set c true) ps).setMain (m :: rest)) :=
    congrArg _ (txRdyEvent_eq c _)
  have hmain : turn ((s.amid (.main :: readySchedule c j) (r.set c true) ps).setMain (m :: rest)) =
      access m ((s.amid (readySchedule c j) (r.set c true) ps).setMain rest) := rfl
  have hbusy (e : Turn) (es : List Turn) (r : Four Bool) : ((s.amid (e :: es) r ps).setMain (m :: rest)).settled = false :=
    not_settled (s := (s.amid (e :: es) r ps).setMain (m :: rest)) hrun (List.cons_ne_nil _ _) (List.cons_ne_nil _ _)
  rw [readySchedule, runTurns_succ (hbusy _ _ _), ← readySchedule, hready, andThen_next, runTurns_succ (hbusy _ _ _), hmain]

/-- With the transmitter made ready before each access, `MAIN` comes to the end of the path. -/
theorem MaskedPath.completes (h : MaskedPath c Q ms s k) (j : Nat) {r : Four Bool} (ps : List Byte)
    (hr : s.txReady.get c = true → r.get c = true) :
    ∃ u v, Q u ∧ ∀ n, runTurns (n + 2 * k) ((s.amid (readySchedule c (j + k)) r ps).setMain ms) =
      runTurns n ((u.amid (readySchedule c j) (r.set c v) ps).setMain []) := by
  induction k generalizing ms s r with
  | zero =>
    cases ms with
    | nil => exact ⟨s, r.get c, h.nil.1, fun n => by rw [Four.set_get]; rfl⟩
    | cons m rest =>
      obtain ⟨_, _, _, _, _, _, _, hk⟩ := h.access_next (r := .all true) [] ps (fun _ => Four.get_all true c)
      cases (hk (Four.get_all true c)).1
  | succ k ih =>
    cases ms with
    | nil => cases h.nil.2
    | cons m rest =>
      obtain ⟨ms', s', k', r', next, hstep, hr', hk⟩ := h.access_next (readySchedule c (j + k)) (r := r.set c true) ps
        fun _ => Four.get_set_same r c true
      obtain ⟨hlen, v, rfl⟩ := hk (Four.get_set_same r c true)
      obtain rfl := Nat.succ.inj hlen
      rw [Four.set_set] at hstep hr'
      obtain ⟨u, v', hu, hrest⟩ := ih next hr'
      refine ⟨u, v', hu, fun n => ?_⟩
      rw [Four.set_set] at hrest
      rw [← hrest, ← Nat.add_assoc j k 1, show n + 2 * (k + 1) = n + 2 * k + 2 by omega,
        runTurns_readySchedule h.masked.1, hstep, andThen_next]

end

end Sys2Proof.Machine
end

section
/-!
`CH.DRAIN` and the synchronous `CH.TX` along a `MaskedPath` (41_channel R154, R155), and the obligations on them.
-/
namespace Sys2Proof.Machine

/-! ### The buffer operations of the path -/

section
variable {c : Channel} {Q : State → Prop} {s : State} {rest : List Micro} {k : Nat}
  (hrun : s.run = .running) (hi : s.ie = false)
include hrun hi

theorem MaskedPath.rbFull (next : MaskedPath c Q rest (s.withRet (.bool (s.isFull (.tx c)))) k) :
    MaskedPath c Q (.call (.rbFull (.tx c)) :: rest) s (k + 2) := by
  refine .step (ms := .fullRd (.tx c) (s.ring (.tx c)).wr :: rest) (s' := s) hrun hi ?_ fun _ _ _ => rfl
  exact .step hrun hi next fun _ _ _ => rfl

theorem MaskedPath.rbEmpty (next : MaskedPath c Q rest (s.withRet (.bool (s.isEmpty (.tx c)))) k) :
    MaskedPath c Q (.call (.rbEmpty (.tx c)) :: rest) s (k + 2) := by
  refine .step (ms := .emptyWr (.tx c) (s.ring (.tx c)).rd :: rest) (s' := s) hrun hi ?_ fun _ _ _ => rfl
  exact .step hrun hi next fun _ _ _ => rfl

/-- `RB.PUSH` with room. -/
theorem MaskedPath.rbPush (hf : s.isFull (.tx c) = false) (hw : (s.ring (.tx c)).wr < s.capacity (.tx c)) {b : Byte}
    (next : MaskedPath c Q rest (s.afterPush (.tx c) b) k) :
    MaskedPath c Q (.call (.rbPush (.tx c) b) :: rest) s (k + 4) := by
  have hne : nextIndex (s.capacity (.tx c)) (s.ring (.tx c)).wr ≠ (s.ring (.tx c)).rd := by simpa [State.isFull] using hf
  have hstored : (s.setRing (.tx c)
      { s.ring (.tx c) with store := Memory.write (s.ring (.tx c)).store (s.ring (.tx c)).wr b }).setWr (.tx c)
        (nextIndex (s.capacity (.tx c)) (s.ring (.tx c)).wr) = s.setRing (.tx c)
      { store := Memory.write (s.ring (.tx c)).store (s.ring (.tx c)).wr b, rd := (s.ring (.tx c)).rd,
        wr := nextIndex (s.capacity (.tx c)) (s.ring (.tx c)).wr } := by
    rw [State.setWr, State.ring_setRing, State.setRing_setRing]
  refine .step (ms := .pushRd (.tx c) b (s.ring (.tx c)).wr :: rest) (s' := s) hrun hi ?_ fun _ _ _ => rfl
  refine .step (ms := .pushStore (.tx c) b (s.ring (.tx c)).wr :: rest) (s' := s) hrun hi ?_ fun _ _ _ => if_neg hne
  refine .step (ms := .pushWr (.tx c) (s.ring (.tx c)).wr :: rest)
    (s' := s.setRing (.tx c) { s.ring (.tx c) with store := Memory.write (s.ring (.tx c)).store (s.ring (.tx c)).wr b })
    hrun hi (.step hrun hi next fun es r ps => ?_) fun es r ps => ?_
  · rw [State.afterPush, ← hstored]
    rfl
  · show andThen (writeSlot (.tx c) (s.ring (.tx c)).wr b ((s.amid es r ps).setMain rest)) _ = _
    rw [writeSlot_eq (s := (s.amid es r ps).setMain rest) b hw]
    rfl

/-- `RB.POP` of a queued byte. -/
theorem MaskedPath.rbPop {x : Byte} (hne : (s.ring (.tx c)).rd ≠ (s.ring (.tx c)).wr)
    (hx : readSlot (.tx c) (s.ring (.tx c)).rd s = .ok x) (next : MaskedPath c Q rest (s.afterPop (.tx c) x) k) :
    MaskedPath c Q (.call (.rbPop (.tx c)) :: rest) s (k + 4) := by
  refine .step (ms := .popWr (.tx c) (s.ring (.tx c)).rd :: rest) (s' := s) hrun hi ?_ fun _ _ _ => rfl
  refine .step (ms := .popStore (.tx c) (s.ring (.tx c)).rd :: rest) (s' := s) hrun hi ?_ fun _ _ _ => if_neg hne
  refine .step (ms := .popRd (.tx c) (s.ring (.tx c)).rd x :: rest) (s' := s) hrun hi
    (.step hrun hi next fun _ _ _ => rfl) fun es r ps => ?_
  have hx' : readSlot (.tx c) (s.ring (.tx c)).rd ((s.amid es r ps).setMain rest) = .ok x := hx
  simp only [access, atPopStore, hx']
  rfl

end

/-! ### `CH.DRAIN` -/

/-- After `CH.DRAIN(c)` with `bs` queued: the bytes are on the wire, the buffer is empty (R155); the transmitter's flag is
`v`. -/
def State.drained (s : State) (c : Channel) (bs : List Byte) (v : Bool) : State :=
  { s.setRing (.tx c) { s.ring (.tx c) with rd := (s.ring (.tx c)).wr } with
    wireOut := s.wireOut.set c (s.wireOut.get c ++ bs)
    txReady := s.txReady.set c v
    ret := .bool true }

/-- After one byte of a drain, found at d1, sent at d4. -/
def State.sentOne (s : State) (c : Channel) (x : Byte) : State :=
  (((s.withRet (.bool false)).readied c).afterPop (.tx c) x).afterWire c x

section
variable {c : Channel} {Q : State → Prop} {s : State} {bs : List Byte} {rest : List Micro} {k : Nat}

theorem drained_nil (he : (s.ring (.tx c)).rd = (s.ring (.tx c)).wr) :
    s.drained c [] (s.txReady.get c) = s.withRet (.bool true) := by
  have hring : s.setRing (.tx c) { s.ring (.tx c) with rd := (s.ring (.tx c)).wr } = s := by
    rw [← he]
    exact s.setRing_ring (.tx c)
  rw [State.drained, hring, List.append_nil, Four.set_get, Four.set_get]
  rfl

theorem drained_sentOne (x : Byte) (bs : List Byte) (v : Bool) :
    (s.sentOne c x).drained c bs v = s.drained c (x :: bs) v := by
  simp only [State.drained, State.sentOne, State.afterWire, State.afterPop, State.readied, State.withRet, State.setRd,
    State.setRing, State.ring, Four.set_set, Four.get_set_same, List.append_assoc, List.singleton_append]

theorem sentOne_holds {x : Byte} (hs : s.wf) (h : s.holds (.tx c) (x :: bs)) : (s.sentOne c x).holds (.tx c) bs :=
  (State.queued_setRing s _ _).trans (State.holds.read hs h).2.2

theorem sentOne_masked {x : Byte} (hs : s.Masked c) (h : s.holds (.tx c) (x :: bs)) : (s.sentOne c x).Masked c := by
  have hready : s.Keeps ((s.withRet (.bool false)).readied c) := .same .refl
  have hpop := hready.trans (afterPop_keeps (.tx c) x _)
  have hsent : s.Keeps (s.sentOne c x) := hpop.trans (.wire_next (wire_eq x (Four.get_set_same _ _ _)))
  exact ⟨hs.run, hs.env, hs.ie, hs.wf.keeps hsent, bs, sentOne_holds hs.wf h⟩

@[simp] theorem drained_ring (s : State) (c : Channel) (bs : List Byte) (v : Bool) :
    (s.drained c bs v).ring (.tx c) = { s.ring (.tx c) with rd := (s.ring (.tx c)).wr } :=
  s.ring_setRing (.tx c) _

theorem drained_holds (bs : List Byte) (v : Bool) : (s.drained c bs v).holds (.tx c) [] :=
  State.holds_nil (by rw [drained_ring])

theorem drained_masked (hs : s.Masked c) (bs : List Byte) (v : Bool) : (s.drained c bs v).Masked c := by
  obtain ⟨_, hwr, hstore⟩ := hs.wf.rings (.tx c)
  have hwf := hs.wf.setRing (.tx c) (r := { s.ring (.tx c) with rd := (s.ring (.tx c)).wr }) ⟨hwr, hwr, hstore⟩
  exact ⟨hs.run, hs.env, hs.ie, ⟨hwf.cfg, hwf.rings, hwf.lines, hwf.mask, hwf.last, hwf.pins, hwf.isr⟩, [],
    drained_holds bs v⟩

/-- The loop of `CH.DRAIN`: ten accesses a byte, and four that find the buffer empty (R155 d1 to d4). -/
theorem MaskedPath.drainLoop (hs : s.Masked c) (hbs : s.holds (.tx c) bs)
    (next : ∀ v, MaskedPath c Q rest (s.drained c bs v) k) :
    MaskedPath c Q (.drainLoop c :: rest) s (k + 10 * bs.length + 4) := by
  induction bs generalizing s with
  | nil =>
    have he : s.isEmpty (.tx c) = true := (hs.wf.isEmpty_iff _).mpr hbs.length_eq.symm
    refine .step (s' := s) hs.run hs.ie (.rbEmpty (rest := .drainTest c :: rest) hs.run hs.ie ?_) fun _ _ _ => rfl
    rw [he]
    refine .step (ms := rest) (s' := s.withRet (.bool true)) hs.run hs.ie ?_ fun _ _ _ => rfl
    rw [← drained_nil (beq_iff_eq.mp he)]
    exact next _
  | cons x bs ih =>
    obtain ⟨hne, hx, hleft⟩ := State.holds.read hs.wf hbs
    have he : s.isEmpty (.tx c) = false := beq_eq_false_iff_ne.mpr hne
    have hread : readSlot (.tx c) (s.ring (.tx c)).rd s = .ok x := readSlot_ok.mpr ⟨hs.wf.rd_lt _, hx⟩
    refine .step (s' := s) hs.run hs.ie (.rbEmpty (rest := .drainTest c :: rest) hs.run hs.ie ?_) fun _ _ _ => rfl
    rw [he]
    refine .step (ms := .drainWait c :: rest) (s' := s.withRet (.bool false)) hs.run hs.ie ?_ fun _ _ _ => rfl
    refine .wait hs.run hs.ie (.rbPop hs.run hs.ie hne hread ?_)
    refine .send hs.run hs.ie rfl (Four.get_set_same _ _ _) (ih (s := s.sentOne c x) ?_ ?_ fun v => ?_)
    · exact sentOne_masked hs hbs
    · exact sentOne_holds hs.wf hbs
    · rw [drained_sentOne]
      exact next v

/-- `CH.DRAIN` inside an operation, `I = 0`: two accesses more, for the critical section. -/
theorem MaskedPath.chDrain (hs : s.Masked c) (hbs : s.holds (.tx c) bs)
    (next : ∀ v, MaskedPath c Q rest (s.drained c bs v) k) :
    MaskedPath c Q (.call (.chDrain c) :: rest) s (k + 1 + 10 * bs.length + 4 + 1) := by
  have hsection (v : Bool) : critExit s.ie ((critEnter s).drained c bs v) = s.drained c bs v := rfl
  have hent : (critEnter s).Masked c := hs.keeps (.same .refl) (ie := hs.ie.symm)
  refine .step (ms := .drainLoop c :: .call (.sysCritExit s.ie) :: rest) (s' := critEnter s) hs.run hs.ie
    (.drainLoop hent hbs fun v => ?_) fun _ _ _ => rfl
  refine .step (ms := rest) (s' := s.drained c bs v) hs.run rfl (next v) fun _ _ _ => ?_
  rw [← hsection]
  rfl

end

/-! ### `CH.TX`, `I = 0` -/

/-- From `s` to `t` the bytes `bs` have gone to the wire of channel `c` and to no other, `tx[c]` has become empty, and
neither an enable nor `I` has changed. -/
structure State.Sent (c : Channel) (bs : List Byte) (s t : State) : Prop where
  wire : t.wireOut = s.wireOut.set c (s.wireOut.get c ++ bs)
  empty : (t.ring (.tx c)).rd = (t.ring (.tx c)).wr
  irq : t.txIrqEn = s.txIrqEn
  ie : t.ie = s.ie

section
variable {c : Channel} {s t u : State} {bs : List Byte}

theorem drained_sent (s : State) (c : Channel) (bs : List Byte) (v : Bool) : s.Sent c bs (s.drained c bs v) :=
  ⟨rfl, by rw [drained_ring], rfl, rfl⟩

theorem State.Sent.trans {more : List Byte} (h : s.Sent c bs t) (g : t.Sent c more u) : s.Sent c (bs ++ more) u where
  wire := by rw [g.wire, h.wire, Four.set_set, Four.get_set_same, List.append_assoc]
  empty := g.empty
  irq := g.irq.trans h.irq
  ie := g.ie.trans h.ie

theorem afterPush_drained_sent (s : State) (c : Channel) (b : Byte) (bs : List Byte) (v : Bool) :
    s.Sent c bs ((s.afterPush (.tx c) b).drained c bs v) := by
  obtain ⟨hwire, hempty, hirq, hie⟩ := drained_sent (s.afterPush (.tx c) b) c bs v
  exact ⟨hwire, hempty, hirq, hie⟩

/-- u2, u3: the byte is queued behind what the buffer holds, and all of it is sent. -/
theorem MaskedPath.pushDrain {Q : State → Prop} {rest : List Micro} {k : Nat} (hs : s.Masked c) (hbs : s.holds (.tx c) bs)
    (hf : s.isFull (.tx c) = false) {b : Byte}
    (next : ∀ v, MaskedPath c Q rest ((s.afterPush (.tx c) b).drained c (bs ++ [b]) v) k) :
    MaskedPath c Q (.call (.rbPush (.tx c) b) :: .call (.chDrain c) :: rest) s
      (k + 1 + 10 * (bs ++ [b]).length + 4 + 1 + 4) := by
  have hpushed := afterPush_holds hs.wf hbs hf b
  have hmasked : (s.afterPush (.tx c) b).Masked c :=
    ⟨hs.run, hs.env, hs.ie, hs.wf.keeps (afterPush_keeps hs.wf hf b), _, hpushed⟩
  exact .rbPush hs.run hs.ie hf (hs.wf.wr_lt _) (.chDrain hmasked hpushed next)

/-- `CH.TX` with `I = 0`: a full buffer is drained first (R154 u1). -/
theorem MaskedPath.chTx (hs : s.Masked c) (hbs : s.holds (.tx c) bs) (b : Byte) :
    ∃ k, MaskedPath c (s.Sent c (bs ++ [b])) [emit c b] s k := by
  have hfound : (s.withRet (.bool (s.isFull (.tx c)))).Masked c := hs.keeps (.same .refl)
  suffices ∃ k, MaskedPath c (s.Sent c (bs ++ [b])) [.txMakeRoom c b] (s.withRet (.bool (s.isFull (.tx c)))) k by
    obtain ⟨k, hk⟩ := this
    exact ⟨_, .step (ms := [.call (.rbFull (.tx c)), .txMakeRoom c b]) (s' := s) hs.run hs.ie (.rbFull hs.run hs.ie hk)
      fun _ _ _ => if_neg (by simp [State.amid, hs.ie])⟩
  cases hf : s.isFull (.tx c) with
  | false =>
    rw [hf] at hfound
    refine ⟨_, .step hs.run hs.ie (.pushDrain hfound hbs hf fun v => .done ?_) fun _ _ _ => rfl⟩
    exact afterPush_drained_sent s c b _ v
  | true =>
    rw [hf] at hfound
    have hroom (v : Bool) : ((s.withRet (.bool true)).drained c bs v).isFull (.tx c) = false := by
      refine (drained_masked hfound bs v).wf.not_full (n := 0) ?_
      rw [State.room, ← (drained_holds (s := s.withRet (.bool true)) bs v).length_eq]
      exact hs.wf.capacity_ge (.tx c)
    refine ⟨_, .step (s' := s.withRet (.bool true)) hs.run hs.ie (.chDrain hfound hbs fun v =>
      .pushDrain (drained_masked hfound bs v) (drained_holds bs v) (hroom v) fun v' => .done ?_) fun _ _ _ => rfl⟩
    exact (drained_sent s c bs v).trans (afterPush_drained_sent ((s.withRet (.bool true)).drained c bs v) c b [b] v')

end

/-! ### `CH.DRAIN` from its first line -/

section
variable {s : State} {c : Channel} (hrest : s.atRest)
include hrest

/-- `CH.DRAIN` alone up to the test of the buffer (R155 d0, d1): `I = 0`, and `MAIN` at d5 or d2. -/
theorem runTurns_chDrain_test (n : Nat) : runTurns (n + 5) (s.setMain [.call (.chDrain c)]) =
    runTurns n (((critEnter s).withRet (.bool (s.isEmpty (.tx c)))).setMain
      (if s.isEmpty (.tx c) then [.call (.sysCritExit s.ie)] else [.drainWait c, .call (.sysCritExit s.ie)])) := by
  have hrun := hrest.run
  have henv := hrest.env
  rw [runTurns_call hrun henv]
  refine (runTurns_access (s := critEnter s) hrun henv (.drainLoop c) [.call (.sysCritExit s.ie)] rfl (n + 3)).trans ?_
  refine (runTurns_rbEmpty (s := critEnter s) hrun henv (.tx c) [.drainTest c, .call (.sysCritExit s.ie)] (n + 1)).trans ?_
  refine (runTurns_access (s := (critEnter s).withRet (.bool (s.isEmpty (.tx c)))) hrun henv (.drainTest c)
    [.call (.sysCritExit s.ie)] rfl n).trans ?_
  cases s.isEmpty (.tx c) <;> rfl

theorem exec_chDrain_empty (he : s.isEmpty (.tx c) = true) :
    exec (.chDrain c) s = .next { s with ret := .bool true } := by
  refine byMain_of_turns hrest (k := 6) fun n => ?_
  rw [show n + 6 = n + 1 + 5 from rfl, runTurns_chDrain_test hrest, he, if_pos rfl]
  exact runTurns_call (s := (critEnter s).withRet (.bool true)) hrest.run hrest.env (.sysCritExit s.ie) [] n

/-- With bytes queued and the transmitter not ready, `MAIN` stands at d2 (R155). -/
theorem exec_chDrain_waits (he : s.isEmpty (.tx c) = false) (hready : s.txReady.get c = false) :
    exec (.chDrain c) s =
      .next { s with ie := false, ret := .bool false, main := [.drainWait c, .call (.sysCritExit s.ie)] } := by
  refine byMain_of_settled hrest.run hrest.main (k := 5) (fun n => ?_) (by omega) ?_
  · rw [runTurns_chDrain_test hrest, he]
    rfl
  · simp [State.settled, State.waiting, hrest.env, hready]

end

theorem readySchedule_length (c : Channel) (n : Nat) : (readySchedule c n).length = 2 * n := by
  induction n with
  | zero => rfl
  | succ n ih => rw [readySchedule, List.length_cons, List.length_cons, ih, Nat.mul_succ]

/-- With the transmitter made ready before each access, `CH.DRAIN` sends the whole buffer and restores `I` (R155, R158). -/
theorem exec_chDrain_ready {s : State} {c : Channel} {n : Nat} {bs : List Byte} (hs : s.wf) (hrun : s.run = .running)
    (hmain : s.main = []) (henv : s.env = readySchedule c n) (hn : 20 * (bs.length + 1) ≤ n) (hbs : s.holds (.tx c) bs) :
    ∃ t : State, exec (.chDrain c) s = .next t ∧
      t = { s with tx := s.tx.set c { s.tx.get c with rd := (s.tx.get c).wr }
                   wireOut := s.wireOut.set c (s.wireOut.get c ++ bs)
                   txReady := s.txReady.set c (t.txReady.get c), env := t.env, ret := t.ret } := by
  have hent : (critEnter (s.setEnv [])).Masked c :=
    ⟨hrun, rfl, rfl, (hs.readied (.setEnv List.nil_suffix)).keeps (.same .refl), bs, hbs⟩
  obtain ⟨k, hk, hpath⟩ : ∃ k ≤ 10 * bs.length + 5,
      MaskedPath c (fun u => ∃ v, u = critExit s.ie ((critEnter (s.setEnv [])).drained c bs v))
        [.drainLoop c, .call (.sysCritExit s.ie)] (critEnter (s.setEnv [])) k :=
    ⟨_, by omega, .drainLoop hent hbs fun v => .step hrun rfl (.done ⟨v, rfl⟩) fun _ _ _ => rfl⟩
  obtain ⟨j, rfl⟩ : ∃ j, n = j + k + 1 := ⟨n - k - 1, by omega⟩
  obtain ⟨u, v, ⟨w, rfl⟩, hend⟩ := hpath.completes j (r := s.txReady.set c true) s.pinIn fun _ => Four.get_set_same _ c true
  refine ⟨((critExit s.ie ((critEnter (s.setEnv [])).drained c bs w)).amid (readySchedule c j)
    ((s.txReady.set c true).set c v) s.pinIn).setMain [], byMain_of_settled hrun hmain (k := 2 * k + 2)
      (fun m => ?_) ?_ (settled_of_done rfl), ?_⟩
  · have hself : s.setMain [.call (.chDrain c)] =
        (s.amid (readySchedule c (j + k + 1)) s.txReady s.pinIn).setMain [.call (.chDrain c)] := by
      rw [← henv]
      rfl
    rw [← Nat.add_assoc, ← hend, hself, runTurns_readySchedule hrun]
    rfl
  · rw [henv, readySchedule_length]
    omega
  · show _ = { s with tx := _, wireOut := _,
                      txReady := s.txReady.set c (((s.txReady.set c true).set c v).get c), env := _, ret := _ }
    rw [Four.set_set, Four.get_set_same, ← hmain]
    rfl

/-! ### The obligations -/

theorem State.wf.masked {s : State} {c : Channel} {bs : List Byte} (hs : s.wf) (hrun : s.run = .running)
    (hi : s.ie = false) (hbs : s.holds (.tx c) bs) : (s.setEnv []).Masked c :=
  ⟨hrun, rfl, hi, hs.readied (.setEnv List.nil_suffix), bs, hbs⟩

/-- Settles O25: the end of the path of `CH.TX`, which every completing run comes to. -/
theorem synchronousTransmitKeepsCallOrder : Obligations.SynchronousTransmitKeepsCallOrder := by
  intro s t c b bs hs hrun hmain hi hbs henv ht hdone
  obtain ⟨k, hpath⟩ := MaskedPath.chTx (hs.masked hrun hi hbs) hbs b
  obtain ⟨hstop, _⟩ | ⟨_, hturns⟩ := byMain_next ht
  · exact absurd hrun hstop
  rw [hmain] at hturns
  obtain ⟨u, es, r, ps, ⟨hwire, hempty, hirq, hie⟩, rfl⟩ :=
    hpath.ends (es := s.env) (r := s.txReady) (ps := s.pinIn) henv id hturns hdone
  refine ⟨?_, hempty, hirq, hie.trans hi, fun d hd => ?_⟩
  · show u.wireOut.get c = _
    rw [hwire, Four.get_set_same, ← List.append_assoc]
    rfl
  · show u.wireOut.get d = _
    rw [hwire]
    exact Four.get_set_ne _ _ hd

/-- Settles O26: alone, `CH.DRAIN` is followed to the test of the buffer; under the fair schedule it completes its path. -/
theorem drainSendsWholeBuffer : Obligations.DrainSendsWholeBuffer :=
  ⟨fun _ _ hrest he => exec_chDrain_empty hrest (beq_iff_eq.mpr he),
    fun _ _ hrest hne hready => exec_chDrain_waits hrest (beq_eq_false_iff_ne.mpr hne) hready,
    fun _ _ _ _ hs hrun hmain henv hn hbs => exec_chDrain_ready hs hrun hmain henv hn hbs⟩

end Sys2Proof.Machine
end

section
/-!
The frame of `CH.TX` and `CH.DRAIN` (41_channel R154, R155, "Writes"), from any state at rest, well formed or not. With
`I = 0` each position is one that stores nothing (`Micro.storeless`) or the one from which the byte is still to be stored
(`Micro.sends`); with `I = 1` the transmit is known exactly.
-/
namespace Sys2Proof.Machine

/-! ### The frame of one channel's transmit side -/

/-- With interrupts off, `t` differs from `s` only in what `CH.TX` and `CH.DRAIN` on channel `c` write: `tx[c]`, `tx_ready[c]`,
`wire_out[c]`, `I`, the position and the returned value. -/
structure State.MaskedFrame (c : Channel) (s t : State) : Prop where
  tx : ∀ d, d ≠ c → t.tx.get d = s.tx.get d
  txReady : ∀ d, d ≠ c → t.txReady.get d = s.txReady.get d
  wireOut : ∀ d, d ≠ c → t.wireOut.get d = s.wireOut.get d
  rest : t = { s with tx := t.tx, txReady := t.txReady, wireOut := t.wireOut, ie := t.ie, main := t.main, ret := t.ret }

section
variable {c : Channel} {s t u : State}

theorem State.MaskedFrame.trans (h : s.MaskedFrame c t) (g : t.MaskedFrame c u) : s.MaskedFrame c u where
  tx d hd := (g.tx d hd).trans (h.tx d hd)
  txReady d hd := (g.txReady d hd).trans (h.txReady d hd)
  wireOut d hd := (g.wireOut d hd).trans (h.wireOut d hd)
  rest := by
    rw [g.rest, h.rest]

/-- `I`, the position and the returned value may take any value. -/
theorem State.MaskedFrame.same (tx : t.tx = s.tx := by rfl) (txReady : t.txReady = s.txReady := by rfl)
    (wireOut : t.wireOut = s.wireOut := by rfl)
    (rest : t = { s with tx := t.tx, txReady := t.txReady, wireOut := t.wireOut, ie := t.ie, main := t.main,
                         ret := t.ret } := by rfl) : s.MaskedFrame c t :=
  ⟨fun _ _ => tx ▸ rfl, fun _ _ => txReady ▸ rfl, fun _ _ => wireOut ▸ rfl, rest⟩

theorem State.MaskedFrame.setRing (s : State) (c : Channel) (r : Ring) : s.MaskedFrame c (s.setRing (.tx c) r) :=
  ⟨fun _ hd => Four.get_set_ne _ _ hd, fun _ _ => rfl, fun _ _ => rfl, rfl⟩

theorem State.MaskedFrame.afterWire (s : State) (c : Channel) (x : Byte) : s.MaskedFrame c (s.afterWire c x) :=
  ⟨fun _ _ => rfl, fun _ hd => Four.get_set_ne _ _ hd, fun _ hd => Four.get_set_ne _ _ hd, rfl⟩

end

/-! ### Positions that store nothing -/

/-- The positions of `CH.DRAIN` on channel `c`, and of the test of `CH.TX`. `i` says whether the critical section may find
`I = 1` to restore. -/
def Micro.storeless (c : Channel) (i : Bool) : Micro → Bool
  | .call (.chDrain d) => d == c
  | .call (.rbFull _) => true
  | .call (.rbEmpty _) => true
  | .call (.rbPop q) => q == .tx c
  | .call (.sysCritExit saved) => !saved || i
  | .fullRd _ _ => true
  | .emptyWr _ _ => true
  | .popWr q _ => q == .tx c
  | .popStore q _ => q == .tx c
  | .popRd q _ _ => q == .tx c
  | .drainLoop d => d == c
  | .drainTest d => d == c
  | .drainWait d => d == c
  | .drainSend d => d == c
  | _ => false

/-- What an access at such a position leaves. -/
structure State.Storeless (c : Channel) (i : Bool) (s t : State) : Prop where
  frame : s.MaskedFrame c t
  store : (t.ring (.tx c)).store = (s.ring (.tx c)).store
  wr : (t.ring (.tx c)).wr = (s.ring (.tx c)).wr
  ie : (s.ie = true → i = true) → t.ie = true → i = true
  main : ∃ ms, t.main = ms ++ s.main ∧ ∀ m ∈ ms, m.storeless c i = true

section
variable {c : Channel} {i : Bool} {s t : State}

/-- The access moves `MAIN` on and writes nothing else but the returned value. -/
theorem State.Storeless.push (ms : List Micro) (hms : ∀ m ∈ ms, m.storeless c i = true := by simp [Micro.storeless]) :
    s.Storeless c i (s.push ms) :=
  ⟨.same, rfl, rfl, id, ms, rfl, hms⟩

theorem State.Storeless.withRet (v : Ret) : s.Storeless c i (s.withRet v) := ⟨.same, rfl, rfl, id, [], rfl, nofun⟩

theorem State.Storeless.refl : s.Storeless c i s := ⟨.same, rfl, rfl, id, [], rfl, nofun⟩

theorem access_storeless {m : Micro} (hm : m.storeless c i = true) (hi : s.ie = true → i = true) :
    Res.All (access m s) (s.Storeless c i) := by
  cases m with
  | call j =>
    cases j with
    | chDrain d =>
      obtain rfl : d = c := beq_iff_eq.mp hm
      have hexit : (Micro.call (.sysCritExit s.ie)).storeless d i = true := by
        cases hie : s.ie with
        | false => rfl
        | true => exact hi hie
      exact Res.all_next ⟨.same, rfl, rfl, fun _ => nofun, [.drainLoop d, .call (.sysCritExit s.ie)], rfl,
        List.forall_mem_cons.mpr ⟨beq_self_eq_true d, List.forall_mem_singleton.mpr hexit⟩⟩
    | rbFull q | rbEmpty q => exact Res.all_next (.push _)
    | rbPop q =>
      obtain rfl := beq_iff_eq.mp hm
      exact Res.all_next (.push _)
    | sysCritExit saved =>
      refine Res.all_next ⟨.same, rfl, rfl, fun _ h => ?_, [], rfl, nofun⟩
      obtain rfl : saved = true := h
      simpa [Micro.storeless] using hm
    | _ => cases hm
  | fullRd q w | emptyWr q r => exact Res.all_next (.withRet _)
  | popWr q r =>
    obtain rfl := beq_iff_eq.mp hm
    exact Res.all_ite (fun _ => Res.all_next (.withRet _)) fun _ => Res.all_next (.push _)
  | popStore q r =>
    obtain rfl := beq_iff_eq.mp hm
    show Res.All (atPopStore _ r s) _
    unfold atPopStore
    split
    · exact Res.all_next (.push _)
    · exact Res.all_fault _
  | popRd q r b =>
    obtain rfl := beq_iff_eq.mp hm
    have hring := s.ring_setRd (.tx c) (nextIndex (s.capacity (.tx c)) r)
    refine Res.all_next ⟨(State.MaskedFrame.setRing s c _).trans .same, ?_, ?_, id, [], rfl, nofun⟩
    · exact (congrArg Ring.store hring :)
    · exact (congrArg Ring.wr hring :)
  | drainLoop d =>
    obtain rfl := beq_iff_eq.mp hm
    exact Res.all_next (.push _)
  | drainTest d =>
    obtain rfl := beq_iff_eq.mp hm
    exact Res.all_ite (fun _ => Res.all_next .refl) fun _ => Res.all_next (.push _)
  | drainWait d =>
    obtain rfl := beq_iff_eq.mp hm
    exact Res.all_ite (fun _ => Res.all_next (.push _)) fun _ => Res.all_next (.push _)
  | drainSend d =>
    obtain rfl := beq_iff_eq.mp hm
    show Res.All (atDrainSend d s) _
    unfold atDrainSend
    split
    · rename_i x _
      refine Res.all_andThen fun t ht => ?_
      obtain ⟨_, rfl⟩ := wire_next ht
      exact Res.all_next ⟨(State.MaskedFrame.afterWire s d x).trans .same, rfl, rfl, id, [.drainLoop d], rfl,
        by simp [Micro.storeless]⟩
    · exact Res.all_next (.push _)
  | _ => cases hm

end

/-! ### The position that stores the byte -/

/-- The positions of the synchronous `CH.TX` on channel `c` from which the byte is still to be stored, at index `w`. -/
def Micro.sends (c : Channel) (w : Nat) : Micro → Bool
  | .call (.chTx d _) => d == c
  | .call (.rbPush q _) => q == .tx c
  | .txMakeRoom d _ => d == c
  | .pushRd q _ w' => q == .tx c && w' == w
  | .pushStore q _ w' => q == .tx c && w' == w
  | .pushWr q w' => q == .tx c && w' == w
  | _ => false

/-- What `MAIN` has left stores at `w` once. -/
inductive SendsOnce (c : Channel) (w : Nat) : List Micro → Prop
  | here {m : Micro} {ms : List Micro} (hm : m.sends c w = true) (hms : ∀ x ∈ ms, x.storeless c false = true) :
    SendsOnce c w (m :: ms)
  | later {m : Micro} {ms : List Micro} (hm : m.storeless c false = true) (h : SendsOnce c w ms) : SendsOnce c w (m :: ms)

theorem SendsOnce.append {c : Channel} {w : Nat} {pre ms : List Micro} (h : SendsOnce c w ms)
    (hpre : ∀ m ∈ pre, m.storeless c false = true) : SendsOnce c w (pre ++ ms) := by
  induction pre with
  | nil => exact h
  | cons m pre ih =>
    obtain ⟨hm, hpre⟩ := List.forall_mem_cons.mp hpre
    exact .later hm (ih hpre)

/-- The byte is still to be stored, at the `wr` of `s`; or the push is over, and `wr` has advanced by one or not at all. -/
def State.SendPhase (c : Channel) (s u : State) : Prop :=
  ((u.ring (.tx c)).wr = (s.ring (.tx c)).wr ∧ SendsOnce c (s.ring (.tx c)).wr u.main) ∨
    (((u.ring (.tx c)).wr = (s.ring (.tx c)).wr ∨ (u.ring (.tx c)).wr = nextIndex (s.capacity (.tx c)) (s.ring (.tx c)).wr) ∧
      ∀ m ∈ u.main, m.storeless c false = true)

/-- Where the synchronous `CH.TX` on channel `c`, begun in `s`, may have brought `MAIN`: nothing but the slot at the old `wr`
has been stored to. -/
structure State.Sending (c : Channel) (s u : State) : Prop where
  frame : s.MaskedFrame c u
  masked : u.ie = false
  store : ∀ k, k ≠ (s.ring (.tx c)).wr → Memory.read (u.ring (.tx c)).store k = Memory.read (s.ring (.tx c)).store k
  phase : s.SendPhase c u

section
variable {c : Channel} {s t u : State} {m : Micro} {rest : List Micro}

/-- `MAIN` moves on towards the store and writes nothing else. -/
theorem State.Sending.push (hi : s.ie = false) {ms : List Micro} (h : SendsOnce c (s.ring (.tx c)).wr (ms ++ s.main)) :
    s.Sending c (s.push ms) := ⟨.same, hi, fun _ _ => rfl, .inl ⟨rfl, h⟩⟩

/-- The position that sends: it moves on towards the store, stores, or ends the push. -/
theorem access_sends (hm : m.sends c (s.ring (.tx c)).wr = true) (hi : s.ie = false)
    (hrest : ∀ x ∈ s.main, x.storeless c false = true) : Res.All (access m s) (s.Sending c) := by
  cases m with
  | call j =>
    cases j with
    | chTx d b =>
      obtain rfl : d = c := beq_iff_eq.mp hm
      refine Res.all_ite (fun h => absurd h (by simp [hi])) fun _ => Res.all_next (.push hi ?_)
      exact .later rfl (.here (beq_self_eq_true d) hrest)
    | rbPush q b =>
      obtain rfl := beq_iff_eq.mp hm
      exact Res.all_next (.push hi (.here (by simp [Micro.sends]) hrest))
    | _ => cases hm
  | txMakeRoom d b =>
    obtain rfl : d = c := beq_iff_eq.mp hm
    have hpush : SendsOnce d (s.ring (.tx d)).wr ([.call (.rbPush (.tx d) b), .call (.chDrain d)] ++ s.main) :=
      .here (beq_self_eq_true (Queue.tx d)) (List.forall_mem_cons.mpr ⟨beq_self_eq_true d, hrest⟩)
    exact Res.all_ite (fun _ => Res.all_next (.push hi (.later (beq_self_eq_true d) hpush)))
      fun _ => Res.all_next (.push hi hpush)
  | pushRd q b w =>
    obtain ⟨rfl, rfl⟩ : q = .tx c ∧ w = (s.ring (.tx c)).wr := by simpa [Micro.sends] using hm
    exact Res.all_ite (fun _ => Res.all_next ⟨.same, hi, fun _ _ => rfl, .inr ⟨.inl rfl, hrest⟩⟩)
      fun _ => Res.all_next (.push hi (.here (by simp [Micro.sends]) hrest))
  | pushStore q b w =>
    obtain ⟨rfl, rfl⟩ : q = .tx c ∧ w = (s.ring (.tx c)).wr := by simpa [Micro.sends] using hm
    refine Res.all_andThen fun t ht => ?_
    obtain ⟨_, rfl⟩ := writeSlot_next ht
    have hring := s.ring_setRing (.tx c)
      { s.ring (.tx c) with store := Memory.write (s.ring (.tx c)).store (s.ring (.tx c)).wr b }
    refine Res.all_next ⟨(State.MaskedFrame.setRing s c _).trans .same, hi, fun k hk => ?_, .inl ⟨?_, ?_⟩⟩
    · rw [State.push_ring, hring]
      exact Memory.read_write_ne _ _ hk
    · rw [State.push_ring, hring]
    · exact .here (ms := s.main) (by simp [Micro.sends]) hrest
  | pushWr q w =>
    obtain ⟨rfl, rfl⟩ : q = .tx c ∧ w = (s.ring (.tx c)).wr := by simpa [Micro.sends] using hm
    have hring := s.ring_setWr (.tx c) (nextIndex (s.capacity (.tx c)) (s.ring (.tx c)).wr)
    refine Res.all_next ⟨(State.MaskedFrame.setRing s c _).trans .same, hi, fun k _ => ?_, .inr ⟨.inr ?_, hrest⟩⟩
    · exact (congrArg (Memory.read ·.store k) hring :)
    · exact (congrArg Ring.wr hring :)
  | _ => cases hm

/-- An access at a position that stores nothing leaves `wr`, and so the phase, as they are. -/
theorem State.Sending.storeless (h : s.Sending c u) (hm : m.storeless c false = true)
    (hphase : ∀ t ms, (t.ring (.tx c)).wr = (u.ring (.tx c)).wr → t.main = ms ++ rest →
      (∀ x ∈ ms, x.storeless c false = true) → s.SendPhase c t) : Res.All (access m (u.setMain rest)) (s.Sending c) := by
  intro t ht
  obtain ⟨hframe, hstore, hwr, hie, ms, hmain, hms⟩ :=
    access_storeless (s := u.setMain rest) hm (fun hu => absurd hu (by simp [h.masked])) t ht
  refine ⟨h.frame.trans (.trans .same hframe), by simpa [h.masked] using hie, fun k hk => ?_, hphase t ms hwr hmain hms⟩
  rw [hstore]
  exact h.store k hk

/-- Any access on the way. -/
theorem State.Sending.access (h : s.Sending c u) (hmain : u.main = m :: rest) :
    Res.All (access m (u.setMain rest)) (s.Sending c) := by
  have hphase := h.phase
  rw [State.SendPhase, hmain] at hphase
  obtain ⟨hwr, honce⟩ | ⟨hwr, hrest⟩ := hphase
  · cases honce with
    | here hm hms =>
      have hcap : (u.setMain rest).capacity (.tx c) = s.capacity (.tx c) := congrArg (·.capacity (.tx c)) h.frame.rest
      intro t ht
      obtain ⟨hframe, hmasked, hstore, hphase⟩ := access_sends (s := u.setMain rest) (hwr ▸ hm) h.masked hms t ht
      rw [State.setMain_ring, hwr] at hstore
      rw [State.SendPhase, State.setMain_ring, hwr, hcap] at hphase
      exact ⟨h.frame.trans (.trans .same hframe), hmasked, fun k hk => (hstore k hk).trans (h.store k hk), hphase⟩
    | later hm honce =>
      exact h.storeless hm fun t ms ht htmain hms => .inl ⟨ht.trans hwr, htmain ▸ honce.append hms⟩
  · obtain ⟨hm, hrest⟩ := List.forall_mem_cons.mp hrest
    refine h.storeless hm fun t ms ht htmain hms => .inr ⟨ht.symm ▸ hwr, fun x hx => ?_⟩
    rw [htmain] at hx
    exact (List.mem_append.mp hx).elim (hms x) (hrest x)

end

/-! ### Runs of `MAIN` alone -/

/-- What every access of `MAIN` keeps, a run of `MAIN` alone keeps. -/
theorem runTurns_alone {P : State → Prop} (henv : ∀ u, P u → u.env = [])
    (haccess : ∀ {u m rest}, P u → u.main = m :: rest → Res.All (access m (u.setMain rest)) P) {n : Nat} {s t : State}
    (hs : P s) (h : runTurns n s = .next t) : P t := by
  refine runTurns_keeps (fun u v hu _ hturn => ?_) n hs h
  have hacc : mainAccess u = .next v := by rwa [turn, henv u hu] at hturn
  unfold mainAccess at hacc
  split at hacc
  · exact Host.Outcome.next.inj hacc ▸ hu
  · exact haccess hu ‹_› v hacc

/-- `CH.DRAIN` on channel `c`, begun in `s`, may have brought `MAIN` to `u`. -/
structure State.Draining (c : Channel) (s u : State) : Prop where
  frame : s.MaskedFrame c u
  store : (u.ring (.tx c)).store = (s.ring (.tx c)).store
  wr : (u.ring (.tx c)).wr = (s.ring (.tx c)).wr
  ie : u.ie = true → s.ie = true
  main : ∀ m ∈ u.main, m.storeless c s.ie = true

section
variable {c : Channel} {s t u : State} {m : Micro} {rest : List Micro}

theorem State.MaskedFrame.env (h : s.MaskedFrame c u) : u.env = s.env := congrArg (·.env) h.rest

theorem State.Draining.access (h : s.Draining c u) (hmain : u.main = m :: rest) :
    Res.All (access m (u.setMain rest)) (s.Draining c) := by
  have hmicro := h.main
  rw [hmain] at hmicro
  obtain ⟨hm, hrest⟩ := List.forall_mem_cons.mp hmicro
  intro t ht
  obtain ⟨hframe, hstore, hwr, hie, ms, htmain, hms⟩ := access_storeless (s := u.setMain rest) hm h.ie t ht
  refine ⟨h.frame.trans (.trans .same hframe), hstore.trans h.store, hwr.trans h.wr, hie h.ie, fun x hx => ?_⟩
  rw [htmain] at hx
  exact (List.mem_append.mp hx).elim (hms x) (hrest x)

/-- An operation of `MAIN` executed alone is a run of `MAIN` alone. -/
theorem byMain_alone {i : Instr} {P : State → Prop} (hrest : s.atRest) (henv : ∀ u, P u → u.env = [])
    (haccess : ∀ {u m rest}, P u → u.main = m :: rest → Res.All (Machine.access m (u.setMain rest)) P)
    (hs : P (s.setMain [.call i])) : Res.All (byMain i s) P := by
  intro t h
  obtain ⟨hstop, _⟩ | ⟨_, hturns⟩ := byMain_next h
  · exact absurd hrest.run hstop
  rw [hrest.main] at hturns
  exact runTurns_alone henv haccess hs hturns

theorem exec_chDrain_draining (hrest : s.atRest) : Res.All (exec (.chDrain c) s) (s.Draining c) :=
  byMain_alone hrest (fun _ hu => hu.frame.env.trans hrest.env) State.Draining.access
    ⟨.same, rfl, rfl, id, List.forall_mem_singleton.mpr (beq_self_eq_true c)⟩

theorem exec_chTx_sending (hrest : s.atRest) (hi : s.ie = false) (b : Byte) :
    Res.All (exec (.chTx c b) s) (s.Sending c) :=
  byMain_alone hrest (fun _ hu => hu.frame.env.trans hrest.env) State.Sending.access
    ⟨.same, hi, fun _ _ => rfl, .inl ⟨rfl, .here (beq_self_eq_true c) nofun⟩⟩

end

/-! ### The queued path, exactly -/

theorem writeSlot_outside {q : Queue} {i : Nat} {s : State} (h : ¬ i < s.capacity q) (b : Byte) :
    writeSlot q i b s = .fault (.outOfArray (.ring q) i) := by
  rw [writeSlot, memWrite, if_neg h]

/-- A push that finds room while `wr` lies outside the array faults at its store (20_memory R63). -/
theorem runTurns_rbPush_outside {q : Queue} {s : State} (hr : s.run = .running) (he : s.env = []) (hf : s.isFull q = false)
    (hw : ¬ (s.ring q).wr < s.capacity q) (b : Byte) (rest : List Micro) (n : Nat) :
    runTurns (n + 3) (s.setMain (.call (.rbPush q b) :: rest)) = .fault (.outOfArray (.ring q) (s.ring q).wr) := by
  have hne : nextIndex (s.capacity q) (s.ring q).wr ≠ (s.ring q).rd := beq_eq_false_iff_ne.mp hf
  rw [runTurns_call hr he]
  refine (runTurns_access hr he (.pushRd q b (s.ring q).wr) rest rfl (n + 1)).trans ?_
  rw [show access (.pushRd q b (s.ring q).wr) (s.setMain rest) =
      .next (s.setMain (.pushStore q b (s.ring q).wr :: rest)) from if_neg hne, andThen_next]
  refine (runTurns_access hr he (.pushStore q b (s.ring q).wr) rest rfl n).trans ?_
  simp only [access, atPushStore, writeSlot_outside (s := s.setMain rest) hw, andThen_fault]

section
variable {c : Channel} {s t : State} (hrest : s.atRest) (hi : s.ie = true)
include hrest hi

theorem exec_chTx_outside (hf : s.isFull (.tx c) = false) (hw : ¬ (s.ring (.tx c)).wr < s.capacity (.tx c)) (b : Byte) :
    exec (.chTx c b) s = .fault (.outOfArray (.ring (.tx c)) (s.ring (.tx c)).wr) := by
  have hrun := hrest.run
  have henv := hrest.env
  obtain ⟨n, hn⟩ : ∃ n, (s.setMain [emit c b]).budget = n + 8 :=
    ⟨(s.setMain [emit c b]).budget - 8, by unfold State.budget; omega⟩
  show byMain (.chTx c b) s = _
  rw [byMain, if_pos hrun, hrest.main, List.nil_append, runMain, hn, show n + 8 = n + 7 + 1 from rfl,
    runTurns_call hrun henv,
    show callInstr (.chTx c b) (s.setMain []) = .next (s.setMain [.txWait c b]) from if_pos hi, andThen_next]
  refine (runTurns_access hrun henv (.txWait c b) [] hf (n + 6)).trans ?_
  refine (runTurns_rbFull hrun henv (.tx c) [.txWaited c b] (n + 4)).trans ?_
  rw [hf]
  refine (runTurns_access (s := s.withRet (.bool false)) hrun henv (.txWaited c b) [] rfl (n + 3)).trans ?_
  exact runTurns_rbPush_outside (s := s.withRet (.bool false)) hrun henv hf hw b [.txEnable c] n

/-- With `I = 1` a transmit executed alone queues its byte or waits, if it answers a state at all. -/
theorem exec_chTx_queues (b : Byte) :
    Res.All (exec (.chTx c b) s) fun t => t = afterEmit c b s ∨ t = s.setMain [.txWait c b] := by
  intro t h
  cases hf : s.isFull (.tx c) with
  | true =>
    rw [exec_chTx_waits hrest hi b hf] at h
    exact .inr (Host.Outcome.next.inj h).symm
  | false =>
    by_cases hw : (s.ring (.tx c)).wr < s.capacity (.tx c)
    · rw [exec_chTx_room hrest hi b hf hw] at h
      exact .inl (Host.Outcome.next.inj h).symm
    · cases (exec_chTx_outside hrest hi hf hw b).symm.trans h

end

/-! ### The obligation -/

/-- `t` differs from `s` only in what `CH.TX` and `CH.DRAIN` on channel `c` write (R154, R155). -/
structure State.TransmitFrame (c : Channel) (s t : State) : Prop where
  rings : ∀ q, q ≠ .tx c → t.ring q = s.ring q
  channels : ∀ d, d ≠ c → t.txIrqEn.get d = s.txIrqEn.get d ∧ t.txReady.get d = s.txReady.get d ∧
    t.wireOut.get d = s.wireOut.get d
  rest : t = { s with tx := t.tx, txIrqEn := t.txIrqEn, txReady := t.txReady, wireOut := t.wireOut, ie := t.ie,
                      main := t.main, ret := t.ret }

section
variable {c : Channel} {s t : State}

theorem State.MaskedFrame.txIrqEn (h : s.MaskedFrame c t) : t.txIrqEn = s.txIrqEn := congrArg (·.txIrqEn) h.rest

theorem State.MaskedFrame.transmitFrame (h : s.MaskedFrame c t) : s.TransmitFrame c t where
  rings q hq := by
    obtain ⟨d, _ | _⟩ := q
    · exact congrArg (·.rx.get d) h.rest
    · exact h.tx d fun hd => hq (hd ▸ rfl)
  channels d hd := ⟨h.txIrqEn ▸ rfl, h.txReady d hd, h.wireOut d hd⟩
  rest := by
    rw [h.rest]

theorem afterEmit_ring (c : Channel) (b : Byte) (s : State) : (afterEmit c b s).ring (.tx c) =
    { store := Memory.write (s.ring (.tx c)).store (s.ring (.tx c)).wr b
      rd := (s.ring (.tx c)).rd
      wr := nextIndex (s.capacity (.tx c)) (s.ring (.tx c)).wr } :=
  s.ring_setRing (.tx c) _

theorem afterEmit_transmitFrame (c : Channel) (b : Byte) (s : State) : s.TransmitFrame c (afterEmit c b s) :=
  ⟨fun _ hq => afterEmit_ring_ne hq b s, fun _ hd => ⟨Four.get_set_ne _ _ hd, rfl, rfl⟩, rfl⟩

theorem exec_chTx_transmitFrame (hrest : s.atRest) {b : Byte} (h : exec (.chTx c b) s = .next t) : s.TransmitFrame c t := by
  cases hi : s.ie with
  | false => exact (exec_chTx_sending hrest hi b t h).frame.transmitFrame
  | true =>
    obtain rfl | rfl := exec_chTx_queues hrest hi b t h
    · exact afterEmit_transmitFrame c b s
    · exact (State.MaskedFrame.same).transmitFrame

end

/-- Settles O59: the invariants of the synchronous path and of the drain, and the two exact answers of the queued path. -/
theorem transmitFrame : Obligations.TransmitFrame := by
  intro s t c b hrest
  refine ⟨?_, fun h => ?_, fun h => ?_⟩
  · rintro (h | h)
    · obtain ⟨hrings, hchannels, hothers⟩ := exec_chTx_transmitFrame hrest h
      exact ⟨hrings, hchannels, hothers⟩
    · obtain ⟨hrings, hchannels, hothers⟩ := (exec_chDrain_draining hrest t h).frame.transmitFrame
      exact ⟨hrings, hchannels, hothers⟩
  · cases hi : s.ie with
    | false =>
      obtain ⟨hframe, hmasked, hstore, hphase⟩ := exec_chTx_sending hrest hi b t h
      refine ⟨hstore, ?_, nofun, fun _ => ⟨hframe.txIrqEn, hmasked⟩⟩
      exact hphase.elim (fun ⟨hwr, _⟩ => .inl hwr) fun ⟨hwr, _⟩ => hwr
    | true =>
      obtain rfl | rfl := exec_chTx_queues hrest hi b t h
      · have hring := afterEmit_ring c b s
        refine ⟨fun k hk => ?_, .inr (congrArg Ring.wr hring), fun _ => ⟨?_, rfl, rfl, hi⟩, nofun⟩
        · rw [hring]
          exact Memory.read_write_ne _ _ hk
        · rw [hring]
      · exact ⟨fun _ _ => rfl, .inl rfl, fun _ => ⟨rfl, rfl, rfl, hi⟩, nofun⟩
  · obtain ⟨hframe, hstore, hwr, hie, _⟩ := exec_chDrain_draining hrest t h
    refine ⟨hstore, hwr, hframe.txIrqEn, ?_⟩
    cases hs : t.ie with
    | false => exact .inr rfl
    | true => exact .inl (hie hs).symm

end Sys2Proof.Machine
end

section
/-!
The line framer (42_line_framer): what one round of `LF.APPEND` does with the next byte, one lemma per row of R171, and the
run over all queued bytes.
-/
namespace Sys2Proof.Machine

/-! ### The line a framer holds -/

theorem readLine_succ_eq_ok {c : Channel} {s : State} {i n : Nat} {b : Byte} {bs : List Byte} :
    readLine c s i (n + 1) = .ok (b :: bs) ↔
      memRead (.line c) s.cfg.lineCap (s.lf.get c).line i = .ok b ∧ readLine c s (i + 1) n = .ok bs := by
  rw [readLine]
  split
  · simp_all
  · split <;> simp_all

theorem readLine_eq_ok {c : Channel} {s : State} {i n : Nat} {bs : List Byte} :
    readLine c s i n = .ok bs ↔
      bs.length = n ∧ ∀ k < n, i + k < s.cfg.lineCap ∧ Memory.read (s.lf.get c).line (i + k) = bs[k]? := by
  induction n generalizing i bs with
  | zero => simp [readLine, eq_comm (a := ([] : List Byte))]
  | succ n ih =>
    cases bs with
    | nil =>
      simp only [List.length_nil, readLine]
      split
      · simp
      · split <;> simp
    | cons b bs =>
      rw [readLine_succ_eq_ok, memRead_ok, ih, Nat.forall_lt_succ_left]
      simp only [List.length_cons, Nat.add_right_cancel_iff, Nat.add_zero, List.getElem?_cons_zero,
        List.getElem?_cons_succ, Nat.add_assoc, Nat.add_comm 1]
      tauto

/-- The line is what the slots below `len` hold (R175). -/
theorem lineOf_eq_ok {c : Channel} {s : State} {bs : List Byte} :
    lineOf c s = .ok bs ↔ bs.length = (s.lf.get c).len ∧
      ∀ k < (s.lf.get c).len, k < s.cfg.lineCap ∧ Memory.read (s.lf.get c).line k = bs[k]? := by
  simp only [lineOf, readLine_eq_ok, Nat.zero_add]

section
variable {c : Channel} {s t : State} {part : List Byte}

theorem lineOf_ok_congr (h : lineOf c s = .ok part) (cfg : t.cfg = s.cfg := by rfl)
    (line : (t.lf.get c).line = (s.lf.get c).line := by rfl) (len : (t.lf.get c).len = (s.lf.get c).len := by rfl) :
    lineOf c t = .ok part := by
  rwa [lineOf_eq_ok, cfg, line, len, ← lineOf_eq_ok]

theorem length_of_lineOf (h : lineOf c s = .ok part) : (s.lf.get c).len = part.length := (lineOf_eq_ok.mp h).1.symm

/-- A content byte stored (R172 a4, a5) is the last one of the line. -/
theorem lineOf_stored (h : lineOf c s = .ok part) (hlen : part.length < s.cfg.lineCap) (b : Byte) :
    lineOf c (s.setLf c ((s.lf.get c).stored b)) = .ok (part ++ [b]) := by
  rw [lineOf_eq_ok] at h ⊢
  obtain ⟨hpart, hread⟩ := h
  simp only [State.setLf_lf, Four.get_set_same, State.setLf_cfg, LineBuf.stored, List.length_append, List.length_singleton,
    ← hpart] at hread ⊢
  refine ⟨trivial, fun k hk => ?_⟩
  obtain hk | rfl := Nat.lt_succ_iff_lt_or_eq.mp hk
  · rw [Memory.read_write_ne _ _ (Nat.ne_of_lt hk), List.getElem?_append_left hk]
    exact hread k hk
  · rw [Memory.read_write_same, List.getElem?_concat_length]
    exact ⟨hlen, rfl⟩

end

theorem State.holds.congr {s t : State} {q : Queue} {bs : List Byte} (h : s.holds q bs) (cfg : t.cfg = s.cfg)
    (ring : t.ring q = s.ring q) : t.holds q bs := by
  rwa [State.holds, State.queued_eq, ring, State.capacity, cfg]

/-! ### The framer's frame -/

@[simp] theorem State.setRd_self (s : State) (q : Queue) : s.setRd q (s.ring q).rd = s := s.setRing_ring q

@[simp] theorem State.setRd_setRd (s : State) (q : Queue) (v w : Nat) : (s.setRd q v).setRd q w = s.setRd q w := by
  simp [State.setRd]

@[simp] theorem State.setLf_self (s : State) (c : Channel) : s.setLf c (s.lf.get c) = s := by simp [State.setLf]

@[simp] theorem State.setLf_setLf (s : State) (c : Channel) (l m : LineBuf) : (s.setLf c l).setLf c m = s.setLf c m := by
  simp [State.setLf]

/-- `t` is `s` but for what `LF.APPEND(c)` writes: `rx[c].rd`, `lf[c]` and the returned value (R172, "Writes"). -/
def State.FramerFrame (c : Channel) (s t : State) : Prop :=
  ∃ rd l r, t = ((s.setRd (.rx c) rd).setLf c l).withRet r

section
variable {c : Channel} {s t u : State}

theorem State.FramerFrame.refl (s : State) (c : Channel) : s.FramerFrame c s :=
  ⟨(s.ring (.rx c)).rd, s.lf.get c, s.ret, by rw [State.setRd_self, State.setLf_self]; rfl⟩

theorem State.FramerFrame.trans (h : s.FramerFrame c t) (g : t.FramerFrame c u) : s.FramerFrame c u := by
  obtain ⟨rd, l, r, rfl⟩ := h
  obtain ⟨rd', l', r', rfl⟩ := g
  refine ⟨rd', l', r', ?_⟩
  calc _ = ((((s.setRd (.rx c) rd).setRd (.rx c) rd').setLf c l).setLf c l').withRet r' := rfl
    _ = _ := by rw [State.setRd_setRd, State.setLf_setLf]

theorem State.FramerFrame.withRet (s : State) (c : Channel) (r : Ret) : s.FramerFrame c (s.withRet r) :=
  ⟨(s.ring (.rx c)).rd, s.lf.get c, r, by rw [State.setRd_self, State.setLf_self]⟩

theorem State.FramerFrame.setLf (s : State) (c : Channel) (l : LineBuf) : s.FramerFrame c (s.setLf c l) :=
  ⟨(s.ring (.rx c)).rd, l, s.ret, by rw [State.setRd_self]; rfl⟩

theorem State.FramerFrame.afterPop (s : State) (c : Channel) (x : Byte) : s.FramerFrame c (s.afterPop (.rx c) x) :=
  ⟨_, s.lf.get c, _, congrArg (State.withRet · (.byte (some x))) (State.setLf_self (s.setRd (.rx c) _) c).symm⟩

theorem State.FramerFrame.eq (h : s.FramerFrame c t) :
    t = ((s.setRd (.rx c) (t.ring (.rx c)).rd).setLf c (t.lf.get c)).withRet t.ret := by
  obtain ⟨rd, l, r, rfl⟩ := h
  simp

theorem State.FramerFrame.ring (h : s.FramerFrame c t) {q : Queue} (hq : q ≠ .rx c) : t.ring q = s.ring q := by
  obtain ⟨rd, l, r, rfl⟩ := h
  exact s.ring_setRing_ne _ hq

theorem State.FramerFrame.lf (h : s.FramerFrame c t) {d : Channel} (hd : d ≠ c) : t.lf.get d = s.lf.get d := by
  obtain ⟨rd, l, r, rfl⟩ := h
  exact Four.get_set_ne _ _ hd

theorem State.FramerFrame.cfg (h : s.FramerFrame c t) : t.cfg = s.cfg := by
  obtain ⟨rd, l, r, rfl⟩ := h
  rfl

theorem State.FramerFrame.run (h : s.FramerFrame c t) : t.run = s.run := by
  obtain ⟨rd, l, r, rfl⟩ := h
  rfl

theorem State.FramerFrame.env (h : s.FramerFrame c t) : t.env = s.env := by
  obtain ⟨rd, l, r, rfl⟩ := h
  rfl

theorem State.FramerFrame.main (h : s.FramerFrame c t) : t.main = s.main := by
  obtain ⟨rd, l, r, rfl⟩ := h
  rfl

end

/-! ### One round of `LF.APPEND` -/

/-- `MAIN` runs alone; the framer on channel `c` has no ready line and holds `part`, and `u` is queued before it. -/
structure State.Framing (c : Channel) (part u : List Byte) (s : State) : Prop where
  run : s.run = .running
  env : s.env = []
  wf : s.wf
  idle : (s.lf.get c).ready = false
  line : lineOf c s = .ok part
  queued : s.holds (.rx c) u

section
variable {c : Channel} {part u : List Byte} {s : State} {b : Byte}

/-- A byte taken off the queue (R172 a1). -/
theorem State.Framing.afterPop (h : s.Framing c part (b :: u)) : (s.afterPop (.rx c) b).Framing c part u :=
  ⟨h.run, h.env, h.wf.keeps (afterPop_keeps _ b s), h.idle, lineOf_ok_congr h.line, afterPop_holds h.wf h.queued⟩

/-- A content byte stored (R172 a4, a5). -/
theorem State.Framing.stored (h : s.Framing c part u) (hlen : part.length < s.cfg.lineCap) (b : Byte) :
    (s.setLf c ((s.lf.get c).stored b)).Framing c (part ++ [b]) u where
  run := h.run
  env := h.env
  wf := h.wf.setLf ((h.wf.lines c).stored (length_of_lineOf h.line ▸ hlen) b)
  idle := by simpa [LineBuf.stored] using h.idle
  line := lineOf_stored h.line hlen b
  queued := h.queued

/-- With no ready line a byte is popped (R172 a0, a1). -/
theorem callInstr_lfAppend_idle (hidle : (s.lf.get c).ready = false) (rest : List Micro) :
    callInstr (.lfAppend c) (s.setMain rest) =
      .next (s.setMain (.call (.rbPop (.rx c)) :: .appendByte c :: rest)) := if_neg (by simp [hidle])

/-- With a ready line nothing is (R172 corner case 1). -/
theorem callInstr_lfAppend_ready (hready : (s.lf.get c).ready = true) (rest : List Micro) :
    callInstr (.lfAppend c) (s.setMain rest) = .next (s.setMain rest) := if_pos hready

/-- With nothing queued the call ends, the pop having returned `None`. -/
theorem runTurns_lfAppend_empty (h : s.Framing c part []) (rest : List Micro) (n : Nat) :
    runTurns (n + 4) (s.setMain (.call (.lfAppend c) :: rest)) =
      runTurns n ((s.withRet (.byte none)).setMain rest) := by
  have hempty : s.isEmpty (.rx c) = true := (h.wf.isEmpty_iff _).mpr h.queued.length_eq.symm
  rw [runTurns_call h.run h.env, callInstr_lfAppend_idle h.idle, andThen_next]
  refine (runTurns_rbPop_empty h.run h.env hempty (.appendByte c :: rest) (n + 1)).trans ?_
  exact runTurns_access (s := s.withRet (.byte none)) h.run h.env (.appendByte c) rest rfl n

/-- With a byte queued, the call comes to a2 with that byte. -/
theorem runTurns_lfAppend_pop (h : s.Framing c part (b :: u)) (rest : List Micro) (n : Nat) :
    runTurns (n + 6) (s.setMain (.call (.lfAppend c) :: rest)) =
      andThen (atAppendByte c ((s.afterPop (.rx c) b).setMain rest)) (runTurns n) := by
  obtain ⟨hne, hb, _⟩ := State.holds.read h.wf h.queued
  have hread : readSlot (.rx c) (s.ring (.rx c)).rd s = .ok b := readSlot_ok.mpr ⟨h.wf.rd_lt _, hb⟩
  rw [runTurns_call h.run h.env, callInstr_lfAppend_idle h.idle, andThen_next]
  refine (runTurns_rbPop h.run h.env (beq_eq_false_iff_ne.mpr hne) hread (.appendByte c :: rest) (n + 1)).trans ?_
  exact runTurns_access (s := s.afterPop (.rx c) b) h.run h.env (.appendByte c) rest rfl n

end

/-- The line is complete (R172 a3). -/
def LineBuf.complete (l : LineBuf) : LineBuf := { l with ready := true }

section
variable {c : Channel} {s : State} {b : Byte} (hret : s.ret = .byte (some b))
include hret

/-- Row `IDLE`, `TERM` or `NUL`. -/
theorem atAppendByte_discard (hlen : (s.lf.get c).len = 0) (hb : b = 0x00#8 ∨ isTerm b = true) :
    atAppendByte c s = .next (s.push [.call (.lfAppend c)]) := by
  simp only [atAppendByte, hret, hlen, if_true, and_true]
  split
  · rfl
  · exact if_pos (hb.resolve_right ‹_›)

/-- Row `ACCUM`, `TERM`. -/
theorem atAppendByte_term (hlen : (s.lf.get c).len ≠ 0) (hb : isTerm b = true) :
    atAppendByte c s = .next (s.setLf c (s.lf.get c).complete) := by
  simp only [atAppendByte, hret, hb, hlen, if_true, if_false]
  rfl

/-- Row `OTHER`, and `NUL` in `ACCUM`: the byte is stored; reaching `L` is fatal (R174). -/
theorem atAppendByte_kept (hlen : (s.lf.get c).len < s.cfg.lineCap) (hb : isTerm b = false)
    (hnul : b = 0x00#8 → (s.lf.get c).len ≠ 0) :
    atAppendByte c s = .next ((s.setLf c ((s.lf.get c).stored b)).setMain
      (if (s.lf.get c).len + 1 = s.cfg.lineCap then [.call (.sysFatal .lineTooLong)]
      else .call (.lfAppend c) :: s.main)) := by
  have hkept : ¬(b = Ascii.nul ∧ (s.lf.get c).len = 0) := fun ⟨h, h0⟩ => hnul h h0
  simp only [atAppendByte, hret, hb, if_neg hkept, storeContent, memWrite, if_pos hlen, Bool.false_eq_true, if_false]
  split <;> rfl

end

section
variable {c : Channel} {part u : List Byte} {s : State} {b : Byte} (rest : List Micro) (n : Nat)

theorem runTurns_lfAppend_discard (h : s.Framing c [] (b :: u)) (hb : b = 0x00#8 ∨ isTerm b = true) :
    runTurns (n + 6) (s.setMain (.call (.lfAppend c) :: rest)) =
      runTurns n ((s.afterPop (.rx c) b).setMain (.call (.lfAppend c) :: rest)) := by
  rw [runTurns_lfAppend_pop h,
    atAppendByte_discard (s := (s.afterPop (.rx c) b).setMain rest) rfl (length_of_lineOf h.line) hb, andThen_next]
  rfl

theorem runTurns_lfAppend_term (h : s.Framing c part (b :: u)) (hp : part ≠ []) (hb : isTerm b = true) :
    runTurns (n + 6) (s.setMain (.call (.lfAppend c) :: rest)) =
      runTurns n (((s.afterPop (.rx c) b).setLf c (s.lf.get c).complete).setMain rest) := by
  have hlen : (s.lf.get c).len ≠ 0 := by simpa [length_of_lineOf h.line] using hp
  rw [runTurns_lfAppend_pop h, atAppendByte_term (s := (s.afterPop (.rx c) b).setMain rest) rfl hlen hb, andThen_next]
  rfl

theorem runTurns_lfAppend_kept (h : s.Framing c part (b :: u)) (hlen : part.length < s.cfg.lineCap)
    (hb : isTerm b = false) (hnul : b = 0x00#8 → part ≠ []) :
    runTurns (n + 6) (s.setMain (.call (.lfAppend c) :: rest)) =
      runTurns n (((s.afterPop (.rx c) b).setLf c ((s.lf.get c).stored b)).setMain
        (if part.length + 1 = s.cfg.lineCap then [.call (.sysFatal .lineTooLong)] else .call (.lfAppend c) :: rest)) := by
  have hlf := length_of_lineOf h.line
  have hnul' : b = 0x00#8 → (s.lf.get c).len ≠ 0 := by simpa [hlf] using hnul
  rw [runTurns_lfAppend_pop h, atAppendByte_kept (s := (s.afterPop (.rx c) b).setMain rest) rfl (hlf ▸ hlen) hb hnul',
    andThen_next, ← hlf]
  rfl

end

/-! ### All queued bytes -/

/-- What `LF.APPEND(c)` leaves of `s`, whose framer held `part` with `u` queued before it (R172, R174, R176). -/
structure State.Appended (c : Channel) (part u : List Byte) (s t : State) : Prop where
  frame : s.FramerFrame c t
  wf : t.wf
  line : lineOf c t = .ok ((framedLine part u).take s.cfg.lineCap)
  kept : ∀ k, (framedLine part u).length ≤ k → Memory.read (t.lf.get c).line k = Memory.read (s.lf.get c).line k
  short : (framedLine part u).length < s.cfg.lineCap →
    ((t.lf.get c).ready = true ↔ behindLine part u ≠ []) ∧ t.holds (.rx c) (behindLine part u).tail
  long : s.cfg.lineCap ≤ (framedLine part u).length →
    t.holds (.rx c) ((pastLeading part u).drop (s.cfg.lineCap - part.length))

/-- What `MAIN` does after the append: a line too long replaces it by the fatal error (R174, 60_exceptions R274). -/
def afterAppend (L : Nat) (line : List Byte) (rest : List Micro) : List Micro :=
  if line.length < L then rest else [.call (.sysFatal .lineTooLong)]

section
variable {c : Channel} {part u : List Byte} {s t : State} {b : Byte}

/-- Nothing queued: the line so far is kept. -/
theorem State.Framing.appended_nil (h : s.Framing c part []) (hlen : part.length < s.cfg.lineCap) :
    s.Appended c part [] (s.withRet (.byte none)) where
  frame := .withRet s c _
  wf := h.wf.keeps (.same .refl)
  line := by
    rw [framedLine_nil, List.take_of_length_le hlen.le]
    exact lineOf_ok_congr h.line
  kept _ _ := rfl
  short _ := ⟨by simp [h.idle], by rw [behindLine_nil]; exact h.queued⟩
  long hlong := absurd hlen (by simpa using hlong)

/-- Row `IDLE`, `TERM` or `NUL`: what the rest of the call leaves, the call leaves. -/
theorem State.Appended.discard (h : (s.afterPop (.rx c) b).Appended c [] u t) (hb : b = 0x00#8 ∨ isTerm b = true) :
    s.Appended c [] (b :: u) t := by
  obtain ⟨frame, wf, line, kept, short, long⟩ := h
  rw [← framedLine_discard u hb] at line kept short long
  rw [← behindLine_discard u hb] at short
  rw [← pastLeading_discard u hb] at long
  exact ⟨.trans (.afterPop s c b) frame, wf, line, kept, short, long⟩

/-- Row `ACCUM`, `TERM`: the line is ready and the terminator taken. -/
theorem State.Framing.appended_term (h : s.Framing c part (b :: u)) (hlen : part.length < s.cfg.lineCap)
    (hp : part ≠ []) (hb : isTerm b = true) :
    s.Appended c part (b :: u) ((s.afterPop (.rx c) b).setLf c (s.lf.get c).complete) := by
  obtain ⟨hline, hbehind⟩ := framed_term u hp hb
  have hlf : (s.lf.set c (s.lf.get c).complete).get c = (s.lf.get c).complete := Four.get_set_same _ _ _
  have hpos : 1 ≤ (s.lf.get c).len := length_of_lineOf h.line ▸ List.length_pos_of_ne_nil hp
  obtain ⟨hle, _, hmem⟩ := h.wf.lines c
  refine ⟨.trans (.afterPop s c b) (.setLf _ c _), h.afterPop.wf.setLf ⟨hle, fun _ => hpos, hmem⟩, ?_, fun k _ => ?_,
    fun _ => ⟨?_, ?_⟩, fun hlong => ?_⟩
  · rw [hline, List.take_of_length_le hlen.le]
    exact lineOf_ok_congr h.line rfl (congrArg LineBuf.line hlf :) (congrArg LineBuf.len hlf :)
  · exact congrArg (Memory.read ·.line k) hlf
  · rw [hbehind]
    exact iff_of_true (congrArg LineBuf.ready hlf) (List.cons_ne_nil b u)
  · rw [hbehind]
    exact h.afterPop.queued
  · exact absurd hlen (by simpa [hline] using hlong)

/-- With `L` bytes held no more is taken (R174). -/
theorem State.Framing.appended_full (h : s.Framing c part u) (hlen : part.length = s.cfg.lineCap) :
    s.Appended c part u s where
  frame := .refl s c
  wf := h.wf
  line := by
    rw [framedLine, List.take_left' hlen]
    exact h.line
  kept _ _ := rfl
  short hshort := absurd (length_le_framedLine part u) (by omega)
  long _ := by
    have hp : part ≠ [] := List.ne_nil_of_length_pos (hlen ▸ Config.lineCap_pos h.wf.cfg)
    rw [hlen, Nat.sub_self, List.drop_zero, pastLeading_of_ne u hp]
    exact h.queued

/-- Row `OTHER`, and `NUL` in `ACCUM`: what the rest of the call leaves, the call leaves. -/
theorem State.Appended.content (hpart : lineOf c s = .ok part)
    (h : ((s.afterPop (.rx c) b).setLf c ((s.lf.get c).stored b)).Appended c (part ++ [b]) u t)
    (hlen : part.length < s.cfg.lineCap) (hb : isTerm b = false) (hnul : b = 0x00#8 → part ≠ []) :
    s.Appended c part (b :: u) t := by
  obtain ⟨frame, wf, line, kept, short, long⟩ := h
  obtain ⟨hline, hbehind⟩ := framed_kept u hb hnul
  refine ⟨.trans (.afterPop s c b) (.trans (.setLf _ c _) frame), wf, hline ▸ line, fun k hk => ?_,
    hline ▸ hbehind ▸ short, fun hlong => ?_⟩
  · rw [hline] at hk
    have hcounted : part.length + 1 ≤ (framedLine (part ++ [b]) u).length := by
      simpa using length_le_framedLine (part ++ [b]) u
    have hne : k ≠ (s.lf.get c).len := by
      rw [length_of_lineOf hpart]
      omega
    rw [kept k hk, State.setLf_lf, Four.get_set_same]
    exact Memory.read_write_ne _ _ hne
  · have hleft := long (hline ▸ hlong)
    have hdrop : s.cfg.lineCap - part.length = s.cfg.lineCap - (part ++ [b]).length + 1 := by
      rw [List.length_append, List.length_singleton]
      omega
    rw [pastLeading_of_ne u (by simp)] at hleft
    rw [pastLeading_kept u hb hnul, hdrop]
    exact hleft

end

/-- The call on all queued bytes, by induction on them: each row of R171 ends it or leads to a round on the rest. -/
theorem runTurns_lfAppend {c : Channel} {part u : List Byte} {s : State} (h : s.Framing c part u)
    (hlen : part.length < s.cfg.lineCap) (rest : List Micro) :
    ∃ t, s.Appended c part u t ∧ ∃ k ≤ 6 * u.length + 4, ∀ n,
      runTurns (n + k) (s.setMain (.call (.lfAppend c) :: rest)) =
        runTurns n (t.setMain (afterAppend s.cfg.lineCap (framedLine part u) rest)) := by
  induction u generalizing s part with
  | nil =>
    refine ⟨_, h.appended_nil hlen, 4, by simp, fun n => ?_⟩
    rw [framedLine_nil, afterAppend, if_pos hlen]
    exact runTurns_lfAppend_empty h rest n
  | cons b u ih =>
    by_cases hdiscard : part = [] ∧ (b = 0x00#8 ∨ isTerm b = true)
    · obtain ⟨rfl, hb⟩ := hdiscard
      obtain ⟨t, ht, k, hk, hrun⟩ := ih h.afterPop hlen
      refine ⟨t, ht.discard hb, k + 6, by rw [List.length_cons]; omega, fun n => ?_⟩
      rw [← Nat.add_assoc, runTurns_lfAppend_discard rest _ h hb, framedLine_discard u hb]
      exact hrun n
    · cases hb : isTerm b with
      | true =>
        have hp : part ≠ [] := fun hp => hdiscard ⟨hp, .inr hb⟩
        refine ⟨_, h.appended_term hlen hp hb, 6, by rw [List.length_cons]; omega, fun n => ?_⟩
        rw [runTurns_lfAppend_term rest n h hp hb, (framed_term u hp hb).1, afterAppend, if_pos hlen]
      | false =>
        have hnul : b = 0x00#8 → part ≠ [] := fun h0 hp => hdiscard ⟨hp, .inl h0⟩
        have hstored := h.afterPop.stored hlen b
        have hline := (framed_kept u hb hnul).1
        have hlen' : (part ++ [b]).length = part.length + 1 := by simp
        by_cases hfull : part.length + 1 = s.cfg.lineCap
        · refine ⟨_, (hstored.appended_full (hlen'.trans hfull)).content h.line hlen hb hnul, 6,
            by rw [List.length_cons]; omega, fun n => ?_⟩
          have hlong := length_le_framedLine (part ++ [b]) u
          rw [runTurns_lfAppend_kept rest n h hlen hb hnul, if_pos hfull, hline, afterAppend, if_neg (by omega)]
          rfl
        · obtain ⟨t, ht, k, hk, hrun⟩ := ih hstored (by rw [hlen']; exact lt_of_le_of_ne hlen hfull)
          refine ⟨t, ht.content h.line hlen hb hnul, k + 6, by rw [List.length_cons]; omega, fun n => ?_⟩
          rw [← Nat.add_assoc, runTurns_lfAppend_kept rest _ h hlen hb hnul, if_neg hfull, hline]
          exact hrun n

end Sys2Proof.Machine
end

section
/-!
The obligations of 42_line_framer: `LF.RESET` (R173) and the framing law of `LF.APPEND` (R171, R172, R174, R176), with what
the fatal report of a line too long leaves alone (60_exceptions R274).
-/
namespace Sys2Proof.Machine

/-! ### The frame of the fatal report -/

/-- `t` differs from `s` only in what the fatal report on channel `c` writes (60_exceptions R274): what `CH.TX` and `CH.DRAIN`
write there, the watchdog and the run state. -/
structure State.ReportFrame (c : Channel) (s t : State) : Prop where
  tx : ∀ d, d ≠ c → t.tx.get d = s.tx.get d
  txReady : ∀ d, d ≠ c → t.txReady.get d = s.txReady.get d
  wireOut : ∀ d, d ≠ c → t.wireOut.get d = s.wireOut.get d
  rest : t = { s with tx := t.tx, txReady := t.txReady, wireOut := t.wireOut, ie := t.ie, main := t.main, ret := t.ret,
                      run := t.run, wdtArmed := t.wdtArmed }

section
variable {c : Channel} {s t u : State}

theorem State.ReportFrame.trans (h : s.ReportFrame c t) (g : t.ReportFrame c u) : s.ReportFrame c u where
  tx d hd := (g.tx d hd).trans (h.tx d hd)
  txReady d hd := (g.txReady d hd).trans (h.txReady d hd)
  wireOut d hd := (g.wireOut d hd).trans (h.wireOut d hd)
  rest := by
    rw [g.rest, h.rest]

theorem State.MaskedFrame.report (h : s.MaskedFrame c t) : s.ReportFrame c t :=
  ⟨h.tx, h.txReady, h.wireOut, by rw [h.rest]⟩

/-- `I`, the position, the run state and the watchdog may take any value. -/
theorem State.ReportFrame.same (ie : Bool) (ms : List Micro) (run : RunState) (armed : Bool) :
    s.ReportFrame c { s with ie := ie, main := ms, run := run, wdtArmed := armed } :=
  ⟨fun _ _ => rfl, fun _ _ => rfl, fun _ _ => rfl, rfl⟩

theorem State.ReportFrame.env (h : s.ReportFrame c t) : t.env = s.env := congrArg (·.env) h.rest

theorem State.ReportFrame.cfg (h : s.ReportFrame c t) : t.cfg = s.cfg := congrArg (·.cfg) h.rest

theorem State.ReportFrame.lf (h : s.ReportFrame c t) : t.lf = s.lf := congrArg (·.lf) h.rest

theorem State.ReportFrame.ring (h : s.ReportFrame c t) {q : Queue} (hq : q ≠ .tx c) : t.ring q = s.ring q := by
  obtain ⟨d, _ | _⟩ := q
  · exact congrArg (·.rx.get d) h.rest
  · exact h.tx d fun hd => hq (hd ▸ rfl)

/-- An access of the report keeps its frame: those of `CH.DRAIN` by `access_storeless`; the others are `CH.TX`'s and h3. -/
theorem access_reportOn_frame {m : Micro} (hm : m.reportOn c = true) (s : State) :
    Res.All (access m s) (s.ReportFrame c) := by
  by_cases hstoreless : m.storeless c true = true
  · exact (access_storeless hstoreless fun _ => rfl).imp fun _ h => h.frame.report
  have hpush (ms : List Micro) : s.ReportFrame c (s.push ms) := .same _ _ _ _
  have hring (r : Ring) : s.ReportFrame c (s.setRing (.tx c) r) := (State.MaskedFrame.setRing s c r).report
  cases m with
  | call i =>
    cases i with
    | chTx => exact Res.all_ite (fun _ => Res.all_next (hpush _)) fun _ => Res.all_next (hpush _)
    | rbPush => exact Res.all_next (hpush _)
    | _ => simp_all [Micro.reportOn, Micro.storeless]
  | pushRd =>
    exact Res.all_ite (fun _ => Res.all_next (State.MaskedFrame.same).report) fun _ => Res.all_next (hpush _)
  | pushStore q =>
    obtain rfl := beq_iff_eq.mp hm
    refine Res.all_andThen fun t ht => ?_
    obtain ⟨_, rfl⟩ := writeSlot_next ht
    exact Res.all_next ((hring _).trans (.same _ _ _ _))
  | pushWr q =>
    obtain rfl := beq_iff_eq.mp hm
    exact Res.all_next ((hring _).trans (State.MaskedFrame.same).report)
  | txMakeRoom => exact Res.all_ite (fun _ => Res.all_next (hpush _)) fun _ => Res.all_next (hpush _)
  | fatalArm =>
    show Res.All (atFatalArm s) _
    unfold atFatalArm
    split <;> exact Res.all_next (.same _ _ _ _)
  | _ => simp_all [Micro.reportOn, Micro.storeless]

end

/-! ### A fatal error wherever it is raised -/

section
variable {kind : FatalKind} {s t : State}

/-- With the fatal error under way, what `MAIN` does next is report, or the halt. -/
theorem State.fatalUnderway.frame {m : Micro} {rest : List Micro} (hs : s.fatalUnderway kind) (hrun : s.run = .running)
    (hmain : s.main = m :: rest) : Res.All (Machine.access m (s.setMain rest)) (s.ReportFrame .ch0) := by
  obtain ⟨_, hhalted | ⟨_, pre, post, hsplit, hpre⟩⟩ := hs
  · cases hrun.symm.trans hhalted
  have htaken : s.ReportFrame .ch0 (s.setMain rest) := .same _ _ _ _
  cases pre with
  | nil =>
    obtain ⟨rfl, rfl⟩ := List.cons.inj (hmain.symm.trans hsplit)
    exact Res.all_next (.same _ _ _ _)
  | cons m' pre =>
    obtain ⟨rfl, rfl⟩ := List.cons.inj (hmain.symm.trans hsplit)
    exact (access_reportOn_frame (hpre m List.mem_cons_self) _).imp fun _ h => htaken.trans h

theorem runTurns_fatalUnderway_frame {n : Nat} (hs : s.fatalUnderway kind) (henv : s.env = [])
    (h : runTurns n s = .next t) : s.ReportFrame .ch0 t := by
  refine (runTurns_keeps (P := fun u => u.fatalUnderway kind ∧ s.ReportFrame .ch0 u)
    (fun u v ⟨hf, hu⟩ hset hturn => ?_) n ⟨hs, .same _ _ _ _⟩ h).2
  have hrun : u.run = .running := by simp_all [State.settled, State.idle]
  have hacc : mainAccess u = .next v := by rwa [turn, hu.env.trans henv] at hturn
  unfold mainAccess at hacc
  split at hacc
  · cases hacc
    exact ⟨hf, hu⟩
  · rename_i hmain
    exact ⟨hf.access hrun hmain v hacc, hu.trans (hf.frame hrun hmain v hacc)⟩

/-- A fatal error raised while `MAIN` runs alone is entered, and nothing but the report follows (60_exceptions R274, R277). -/
theorem runTurns_raiseFatal {w : List Byte} (hs : s.wf) (hrun : s.run = .running) (henv : s.env = [])
    (hw : s.holds (.tx .ch0) w) (kind : FatalKind) (n : Nat) :
    ∃ t, runTurns (n + 1) (raiseFatal kind s) = .next t ∧ t.inFatal kind ∧ s.ReportFrame .ch0 t := by
  have hmasked : State.Masked .ch0 { s with ie := false } := ⟨hrun, henv, rfl, hs.keeps (.same .refl), w, hw⟩
  obtain ⟨t, ht⟩ :=
    maskedRuns_emitAll (diagnostic s.cfg kind) (maskedRuns_fatalArm (maskedRuns_fatalHalt kind)) _ hmasked n
  have hunderway := enterFatal_underway (kind := kind) hrun
  have hentered : s.ReportFrame .ch0 (enterFatal kind s) := .same _ _ _ _
  refine ⟨t, (runTurns_call hrun henv (.sysFatal kind) [] n).trans ht,
    (runTurns_fatalUnderway hunderway henv ht).1.inFatal,
    hentered.trans (runTurns_fatalUnderway_frame hunderway henv ht)⟩

end

/-! ### Runs within the budget -/

theorem capacity_le_configSize (cfg : Config) (q : Queue) : cfg.capacity q ≤ configSize cfg := by
  obtain ⟨c, _ | _⟩ := q <;> cases c <;> simp only [Config.capacity, Four.get, configSize] <;> omega

/-- An operation that comes to `u` before its budget is spent goes on from there. -/
theorem byMain_reaches {i : Instr} {s u : State} (hrest : s.atRest) {k : Nat}
    (h : ∀ n, runTurns (n + k) (s.setMain [.call i]) = runTurns n u) (hk : k < 1000 * (configSize s.cfg + 1)) :
    ∃ n, byMain i s = runTurns (n + 1) u := by
  obtain ⟨n, hn⟩ : ∃ n, (s.setMain [.call i]).budget = n + 1 + k :=
    ⟨(s.setMain [.call i]).budget - k - 1, by simp only [State.budget, State.setMain_cfg]; omega⟩
  exact ⟨n, by rw [byMain, if_pos hrest.run, hrest.main, List.nil_append, runMain, hn, h]⟩

/-! ### The obligations -/

/-- Settles O31: one access, which writes `len` and `ready`. -/
theorem lineResetClearsLenAndReady : Obligations.LineResetClearsLenAndReady := fun _ c hrest =>
  byMain_of_turns hrest (runTurns_call hrest.run hrest.env (.lfReset c) [])

/-- `LF.APPEND` executed alone comes to `afterAppend` within its budget. -/
theorem exec_lfAppend {c : Channel} {part u : List Byte} {s : State} (hs : s.wf) (hrest : s.atRest)
    (hidle : (s.lf.get c).ready = false) (hpart : lineOf c s = .ok part) (hu : s.holds (.rx c) u)
    (hlen : part.length < s.cfg.lineCap) :
    ∃ t n, s.Appended c part u t ∧ exec (.lfAppend c) s =
      runTurns (n + 1) (t.setMain (afterAppend s.cfg.lineCap (framedLine part u) [])) := by
  obtain ⟨t, ht, k, hk, hrun⟩ := runTurns_lfAppend ⟨hrest.run, hrest.env, hs, hidle, hpart, hu⟩ hlen []
  have hqueued : u.length < s.capacity (.rx c) := hu.length_eq ▸ hs.count_lt _
  have hsize : s.capacity (.rx c) ≤ configSize s.cfg := capacity_le_configSize _ _
  obtain ⟨n, hn⟩ := byMain_reaches hrest hrun (by omega)
  exact ⟨t, n, ht, hn⟩

/-- Settles O32: the rows of R171 on all queued bytes, and on a line too long the fatal report, which leaves the framers and
`rx[c]` alone. -/
theorem appendFramesOneLine : Obligations.AppendFramesOneLine := by
  refine ⟨fun s c hrest hready => ?_,
    fun s c part u hs hrest hidle hpart hu => ⟨fun hshort => ?_, fun hlen hlong ⟨w, hw⟩ => ?_⟩⟩
  · refine byMain_of_turns hrest (k := 1) fun n => ?_
    rw [runTurns_call hrest.run hrest.env, callInstr_lfAppend_ready hready, andThen_next]
  · obtain ⟨t, n, ht, hexec⟩ := exec_lfAppend hs hrest hidle hpart hu ((length_le_framedLine part u).trans_lt hshort)
    obtain ⟨hready, hqueued⟩ := ht.short hshort
    have hline := ht.line
    rw [List.take_of_length_le hshort.le] at hline
    have hdone : t.main = [] := ht.frame.main.trans hrest.main
    rw [afterAppend, if_pos hshort, ← hdone, State.setMain_main_self, runTurns_settled (settled_of_done hdone)] at hexec
    exact ⟨t, hexec, ht.frame.eq, length_of_lineOf hline, hline, hready, hqueued, ht.kept⟩
  · obtain ⟨t, n, ht, hexec⟩ := exec_lfAppend hs hrest hidle hpart hu hlen
    rw [afterAppend, if_neg (by omega)] at hexec
    have htw : t.holds (.tx .ch0) w := hw.congr ht.frame.cfg (ht.frame.ring nofun)
    obtain ⟨v, hv, hfatal, hframe⟩ := runTurns_raiseFatal ht.wf (ht.frame.run.trans hrest.run)
      (ht.frame.env.trans hrest.env) htw .lineTooLong n
    have hline : lineOf c v = .ok ((framedLine part u).take s.cfg.lineCap) :=
      lineOf_ok_congr ht.line hframe.cfg (hframe.lf ▸ rfl) (hframe.lf ▸ rfl)
    refine ⟨v, hexec.trans hv, hfatal, ?_, hline, (ht.long hlong).congr hframe.cfg (hframe.ring nofun),
      fun d hd => hframe.lf ▸ ht.frame.lf hd, fun q hrx htx => (hframe.ring htx).trans (ht.frame.ring hrx)⟩
    rw [length_of_lineOf hline, List.length_take, Nat.min_eq_left hlong]

end Sys2Proof.Machine
end

section
/-!
Runs of `MAIN` alone with `I = 1` through whole lines of output: what `emit_all` leaves when it finds room (30_encoding R114,
41_channel R154), and how far such a run comes within its budget.
-/
namespace Sys2Proof.Machine

/-! ### Runs from one state to another -/

/-- `MAIN` alone comes from `s` to `t` in at most `b` accesses. -/
def State.Reaches (b : Nat) (s t : State) : Prop := ∃ k ≤ b, ∀ n, runTurns (n + k) s = runTurns n t

section
variable {s t u : State} {a b : Nat}

theorem State.Reaches.refl (s : State) : s.Reaches 0 s := ⟨0, le_rfl, fun _ => rfl⟩

theorem State.Reaches.trans (h : s.Reaches a t) (g : t.Reaches b u) : s.Reaches (a + b) u := by
  obtain ⟨j, hj, hst⟩ := h
  obtain ⟨k, hk, htu⟩ := g
  exact ⟨k + j, by omega, fun n => by rw [← Nat.add_assoc, hst, htu]⟩

theorem State.Reaches.mono (h : s.Reaches a t) (hab : a ≤ b) : s.Reaches b t := by
  obtain ⟨k, hk, hst⟩ := h
  exact ⟨k, hk.trans hab, hst⟩

/-- One access that does not wait. -/
theorem State.Reaches.of_access (hrun : s.run = .running) (henv : s.env = []) {m : Micro} {rest : List Micro}
    (h : access m (s.setMain rest) = .next t) (hw : (s.setMain (m :: rest)).waiting = false := by rfl) :
    (s.setMain (m :: rest)).Reaches 1 t :=
  ⟨1, le_rfl, fun n => by rw [runTurns_access hrun henv m rest hw, h, andThen_next]⟩

/-- An operation whose end `MAIN` comes to before its budget is spent leaves what stands there. -/
theorem byMain_of_reaches {i : Instr} (hrest : s.atRest) (h : (s.setMain [.call i]).Reaches b t)
    (hb : b < 1000 * (configSize s.cfg + 1)) (ht : t.main = []) : byMain i s = .next t := by
  obtain ⟨k, hk, hst⟩ := h
  obtain ⟨n, hn⟩ := byMain_reaches hrest hst (by omega)
  rw [hn, runTurns_settled (settled_of_done ht)]

/-- An operation that its first line refuses is refused. -/
theorem byMain_refused {i : Instr} {e : Refusal} (hrest : s.atRest) (h : callInstr i (s.setMain []) = .refused e) :
    byMain i s = .refused e := by
  obtain ⟨n, hn⟩ : ∃ n, (s.setMain [.call i]).budget = n + 1 :=
    ⟨(s.setMain [.call i]).budget - 1, by unfold State.budget; omega⟩
  rw [byMain, if_pos hrest.run, hrest.main, List.nil_append, runMain, hn, runTurns_call hrest.run hrest.env, h,
    andThen_refused]

end

/-! ### What a line of output leaves -/

section
variable (c : Channel) (bs more : List Byte) (s : State)

theorem afterEmitAll_append : afterEmitAll c (bs ++ more) s = afterEmitAll c more (afterEmitAll c bs s) :=
  List.foldl_append

/-- Nothing but `tx[c]`, its interrupt enable and the returned value. -/
theorem afterEmitAll_frame :
    afterEmitAll c bs s = { s with tx := s.tx.set c ((afterEmitAll c bs s).tx.get c),
                                   txIrqEn := (afterEmitAll c bs s).txIrqEn, ret := (afterEmitAll c bs s).ret } := by
  induction bs generalizing s with
  | nil => simp [afterEmitAll]
  | cons b bs ih =>
    have htx : (afterEmit c b s).tx.set c = s.tx.set c := funext fun _ => Four.set_set _ _ _ _
    exact (ih (afterEmit c b s)).trans (by rw [htx]; rfl)

@[simp] theorem afterEmitAll_cfg : (afterEmitAll c bs s).cfg = s.cfg := congrArg (·.cfg) (afterEmitAll_frame c bs s)
@[simp] theorem afterEmitAll_run : (afterEmitAll c bs s).run = s.run := congrArg (·.run) (afterEmitAll_frame c bs s)
@[simp] theorem afterEmitAll_env : (afterEmitAll c bs s).env = s.env := congrArg (·.env) (afterEmitAll_frame c bs s)
@[simp] theorem afterEmitAll_main : (afterEmitAll c bs s).main = s.main := congrArg (·.main) (afterEmitAll_frame c bs s)
@[simp] theorem afterEmitAll_mask : (afterEmitAll c bs s).mask = s.mask := congrArg (·.mask) (afterEmitAll_frame c bs s)
@[simp] theorem afterEmitAll_last : (afterEmitAll c bs s).last = s.last := congrArg (·.last) (afterEmitAll_frame c bs s)
@[simp] theorem afterEmitAll_msClock : (afterEmitAll c bs s).msClock = s.msClock :=
  congrArg (·.msClock) (afterEmitAll_frame c bs s)
@[simp] theorem afterEmitAll_pinIn : (afterEmitAll c bs s).pinIn = s.pinIn :=
  congrArg (·.pinIn) (afterEmitAll_frame c bs s)
@[simp] theorem afterEmitAll_drvLog : (afterEmitAll c bs s).drvLog = s.drvLog :=
  congrArg (·.drvLog) (afterEmitAll_frame c bs s)

theorem afterEmitAll_rd : ((afterEmitAll c bs s).ring (.tx c)).rd = (s.ring (.tx c)).rd := by
  induction bs generalizing s with
  | nil => rfl
  | cons b bs ih => exact (ih (afterEmit c b s)).trans (by rw [afterEmit_ring])

variable {s}

/-- The bytes go to the slots from the old `wr` on. -/
theorem afterEmitAll_sameTxBut (hs : s.wf) : (afterEmitAll c bs s).sameTxBut c bs.length s := by
  induction bs generalizing s with
  | nil => exact fun _ _ => rfl
  | cons b bs ih =>
    intro k hk
    rw [List.length_cons] at hk
    have hring := afterEmit_ring c b s
    have hstored : Memory.read ((afterEmit c b s).ring (.tx c)).store k = Memory.read (s.ring (.tx c)).store k := by
      have hslot := hk 0 (by omega)
      rw [Nat.add_zero, Nat.mod_eq_of_lt (hs.wr_lt _)] at hslot
      rw [hring]
      exact Memory.read_write_ne _ _ hslot
    refine (ih (hs.afterEmit c b) k fun j hj => ?_).trans hstored
    have hslot := hk (j + 1) (by omega)
    rwa [hring, show (afterEmit c b s).capacity (.tx c) = s.capacity (.tx c) from rfl, nextIndex, Nat.mod_add_mod,
      Nat.add_right_comm, Nat.add_assoc]

end

/-! ### Room for a line of output -/

/-- `MAIN` runs alone with `I = 1`, and `tx[c]` has room for `n` more bytes. -/
structure State.HasRoom (c : Channel) (n : Nat) (s : State) : Prop where
  run : s.run = .running
  env : s.env = []
  ie : s.ie = true
  wf : s.wf
  room : s.room c n

section
variable {c : Channel} {n : Nat} {s : State}

theorem State.HasRoom.mono (h : s.HasRoom c n) {m : Nat} (hm : m ≤ n) : s.HasRoom c m :=
  { h with room := (Nat.add_le_add_left hm _).trans_lt h.room }

theorem State.HasRoom.not_full (h : s.HasRoom c (n + 1)) : s.isFull (.tx c) = false := h.wf.not_full h.room

/-- A byte takes one place. -/
theorem State.HasRoom.emitted (h : s.HasRoom c (n + 1)) (b : Byte) : (afterEmit c b s).HasRoom c n := by
  refine ⟨h.run, h.env, h.ie, h.wf.afterEmit c b, ?_⟩
  have hne : nextIndex (s.capacity (.tx c)) (s.ring (.tx c)).wr ≠ (s.ring (.tx c)).rd := by
    simpa [State.isFull] using h.not_full
  have hcount : (afterEmit c b s).count (.tx c) = s.count (.tx c) + 1 := by
    rw [State.count, afterEmit_ring]
    exact ringCount_push (h.wf.rd_lt _) (h.wf.wr_lt _) hne
  have hroom := h.room
  rw [State.room] at hroom ⊢
  rw [hcount]
  show _ < s.capacity (.tx c)
  omega

theorem State.HasRoom.emittedAll {bs : List Byte} (h : s.HasRoom c (bs.length + n)) :
    (afterEmitAll c bs s).HasRoom c n := by
  induction bs generalizing s with
  | nil => exact h.mono (by simp)
  | cons b bs ih => exact ih (State.HasRoom.emitted (h.mono (m := bs.length + n + 1) (by rw [List.length_cons]; omega)) b)

/-- With room for all of them the bytes of a line are queued one after another, ten accesses each. -/
theorem State.HasRoom.reaches_emitAll {bs : List Byte} (h : s.HasRoom c bs.length) (rest : List Micro) :
    (s.setMain (emitAll c bs ++ rest)).Reaches (10 * bs.length) ((afterEmitAll c bs s).setMain rest) := by
  refine ⟨_, le_rfl, runTurns_emitAll bs h.run h.env h.ie (fun k hk => ?_) rest⟩
  have hleft : (afterEmitAll c (bs.take k) s).HasRoom c 1 :=
    State.HasRoom.emittedAll (h.mono (by simp; omega))
  have hwr := hleft.wf.wr_lt (.tx c)
  rw [State.capacity_of_cfg (s := s) _ (afterEmitAll_cfg _ _ _)] at hwr
  exact ⟨hleft.not_full (n := 0), hwr⟩

end

end Sys2Proof.Machine
end

section
/-!
The obligations of 43_port_monitor: `PM.WATCH` and `PM.UNWATCH` (R191, R192), `PM.POLL` (R193) port by port, the test of
`poll_due` (R196) and the clock (R197).
-/
namespace Sys2Proof.Machine

/-! ### The mask of a port -/

theorem pinMask_getLsbD (i j : Pin) : (pinMask i).getLsbD j.val = (j == i) := by
  revert i j
  decide

section
variable {s : State} (hrest : s.atRest) {p : Nat} (i : Pin)
include hrest

theorem exec_pmWatch (hp : p < s.cfg.numPorts) : exec (.pmWatch p i) s = .next (watchPin p i s) :=
  byMain_of_turns hrest (k := 1) fun n => by
    rw [runTurns_call hrest.run hrest.env,
      show callInstr (.pmWatch p i) (s.setMain []) = .next (watchPin p i (s.setMain [])) from if_pos hp]
    rfl

theorem exec_pmUnwatch (hp : p < s.cfg.numPorts) : exec (.pmUnwatch p i) s = .next (unwatchPin p i s) :=
  byMain_of_turns hrest (k := 1) fun n => by
    rw [runTurns_call hrest.run hrest.env,
      show callInstr (.pmUnwatch p i) (s.setMain []) = .next (unwatchPin p i (s.setMain [])) from if_pos hp]
    rfl

end

/-! ### The notifications of a poll -/

/-- The notifications of those of the pins `is` whose bit is set in `chg` (R193 p3). -/
def pinsReport (letter v chg : Byte) (is : List Pin) : List Byte :=
  is.flatMap fun i => if chg.getLsbD i.val then notification letter v i else []

/-- What changed on port `p` (R193 p2). -/
def State.chgOf (s : State) (p : Nat) : Byte := changed (s.pinsOf p) (s.lastOf p) (s.maskOf p)

theorem State.chgOf_getLsbD (s : State) (p : Nat) (i : Pin) : (s.chgOf p).getLsbD i.val = s.pinChanged p i := by
  simp [State.chgOf, changed, State.pinChanged, Bool.and_comm]

/-- The notifications of port `p`. -/
def State.portReport (s : State) (p : Nat) : List Byte :=
  pinsReport (portLetter s.cfg p) (s.pinsOf p) (s.chgOf p) (List.finRange 8)

/-- The notifications of the ports below `m`. -/
def State.reportBelow (s : State) (m : Nat) : List Byte := (List.range m).flatMap s.portReport

theorem State.reportBelow_succ (s : State) (m : Nat) : s.reportBelow (m + 1) = s.reportBelow m ++ s.portReport m := by
  simp [State.reportBelow, List.range_succ]

theorem State.pollReport_eq (s : State) : s.pollReport = s.reportBelow s.cfg.numPorts := by
  have hport (p : Nat) : s.portReport p = (List.finRange 8).flatMap fun i =>
      if s.pinChanged p i then notification (portLetter s.cfg p) (s.pinsOf p) i else [] := by
    simp only [State.portReport, pinsReport, State.chgOf_getLsbD]
  rw [State.reportBelow, funext hport]
  rfl

/-! ### What a poll leaves -/

/-- What `PM.POLL` writes besides transmitting (R193, "Writes"; log 13). -/
def State.withMonitor (s : State) (last : List Byte) (stamp : Byte) (log : List DrvAction) : State :=
  { s with last := last, lastNotify := stamp, drvLog := log }

/-- The time stamp after the notifications `r` (R193 p4). -/
def State.stampAfter (s : State) (r : List Byte) : Byte := if r = [] then s.lastNotify else s.msClock

/-- After the notifications `r` (R193 p3, p4). -/
def afterReport (r : List Byte) (s : State) : State :=
  (afterEmitAll .ch0 r s).withMonitor s.last (s.stampAfter r) s.drvLog

/-- After p1 to p5 of port `p`. -/
def afterPort (p : Nat) (s : State) : State :=
  (afterEmitAll .ch0 (s.portReport p) s).withMonitor (s.last.set p (s.pinsOf p)) (s.stampAfter (s.portReport p))
    (s.drvLog ++ [.sample p])

/-- After the ports below `m`. -/
def afterPorts (m : Nat) (s : State) : State :=
  (afterEmitAll .ch0 (s.reportBelow m) s).withMonitor (s.pinIn.take m ++ s.last.drop m) (s.stampAfter (s.reportBelow m))
    (s.drvLog ++ (List.range m).map .sample)

section
variable (s : State)

theorem afterEmitAll_withMonitor (c : Channel) (bs last : List Byte) (stamp : Byte) (log : List DrvAction) :
    afterEmitAll c bs (s.withMonitor last stamp log) = (afterEmitAll c bs s).withMonitor last stamp log := by
  induction bs generalizing s with
  | nil => rfl
  | cons b bs ih => exact ih (afterEmit c b s)

/-- A later report stamps over an earlier one. -/
theorem stampAfter_append (r r' last : List Byte) (log : List DrvAction) :
    ((afterEmitAll .ch0 r s).withMonitor last (s.stampAfter r) log).stampAfter r' = s.stampAfter (r ++ r') := by
  cases r' <;> simp [State.stampAfter, State.withMonitor]

theorem afterReport_append (r r' : List Byte) : afterReport r' (afterReport r s) = afterReport (r ++ r') s := by
  simp only [afterReport, stampAfter_append, afterEmitAll_append, afterEmitAll_withMonitor]
  rfl

/-- Nothing but what a poll writes (R193, "Writes"). -/
theorem afterPorts_frame (m : Nat) :
    afterPorts m s = { s with tx := s.tx.set .ch0 ((afterPorts m s).tx.get .ch0), txIrqEn := (afterPorts m s).txIrqEn,
                              last := (afterPorts m s).last, lastNotify := (afterPorts m s).lastNotify,
                              drvLog := (afterPorts m s).drvLog, ret := (afterPorts m s).ret } :=
  congrArg (fun u => u.withMonitor (afterPorts m s).last (afterPorts m s).lastNotify (afterPorts m s).drvLog)
    (afterEmitAll_frame .ch0 (s.reportBelow m) s)

theorem afterPorts_zero : afterPorts 0 s = s := by
  simp [afterPorts, State.reportBelow, afterEmitAll, State.stampAfter, State.withMonitor]

/-- A port finds its sample, mask and last value as they were before the poll. -/
theorem afterPorts_portReport {m : Nat} (hpins : m ≤ s.pinIn.length) :
    (afterPorts m s).portReport m = s.portReport m := by
  have hlen : (s.pinIn.take m).length = m := List.length_take_of_le hpins
  have hold : (afterPorts m s).lastOf m = s.lastOf m := by
    simp [State.lastOf, afterPorts, State.withMonitor, List.getElem?_append_right hlen.le, hlen]
  simp only [State.portReport, State.chgOf, hold]
  simp [afterPorts, State.withMonitor, State.pinsOf, State.maskOf]

theorem afterPort_afterPorts {m : Nat} (hpins : m < s.pinIn.length) (hlast : m < s.last.length) :
    afterPort m (afterPorts m s) = afterPorts (m + 1) s := by
  have hpinsOf : (afterPorts m s).pinsOf m = s.pinsOf m := by simp [afterPorts, State.withMonitor, State.pinsOf]
  have hset : (s.pinIn.take m ++ s.last.drop m).set m (s.pinsOf m) = s.pinIn.take (m + 1) ++ s.last.drop (m + 1) := by
    have hlen : (s.pinIn.take m).length = m := List.length_take_of_le hpins.le
    have hpin : s.pinsOf m = s.pinIn[m] := List.getD_eq_getElem _ _ hpins
    rw [List.drop_eq_getElem_cons hlast, List.take_succ_eq_append_getElem hpins, List.set_append_right _ _ hlen.le, hlen,
      Nat.sub_self, List.set_cons_zero, hpin, List.append_assoc, List.singleton_append]
  have hlog : (s.drvLog ++ (List.range m).map .sample) ++ [.sample m] = s.drvLog ++ (List.range (m + 1)).map .sample := by
    simp [List.range_succ]
  simp only [afterPort, afterPorts_portReport s hpins.le, hpinsOf]
  simp only [afterPorts, stampAfter_append, afterEmitAll_withMonitor, s.reportBelow_succ, afterEmitAll_append, ← hset,
    ← hlog]
  rfl

end

/-! ### `PM.POLL` port by port -/

section
variable {s : State}

theorem State.HasRoom.withMonitor {c : Channel} {n : Nat} (h : s.HasRoom c n) {last : List Byte} (stamp : Byte)
    (log : List DrvAction) (hlast : last.length = s.last.length) : (s.withMonitor last stamp log).HasRoom c n :=
  ⟨h.run, h.env, h.ie, h.wf.keeps (.same .refl (last := hlast)), h.room⟩

theorem State.HasRoom.reported {r : List Byte} {n : Nat} (h : s.HasRoom .ch0 (r.length + n)) :
    (afterReport r s).HasRoom .ch0 n :=
  h.emittedAll.withMonitor _ _ (by simp)

theorem access_notifyStamp (s : State) (rest : List Micro) :
    access .notifyStamp (s.setMain rest) = .next ((s.withMonitor s.last s.msClock s.drvLog).setMain rest) := rfl

/-- p3 and p4 of one pin. -/
theorem State.HasRoom.reaches_notify {letter v : Byte} {i : Pin}
    (h : s.HasRoom .ch0 (notification letter v i).length) (rest : List Micro) :
    (s.setMain (notify letter v i ++ rest)).Reaches (11 * (notification letter v i).length)
      ((afterReport (notification letter v i) s).setMain rest) := by
  have hrun : (afterEmitAll .ch0 (notification letter v i) s).run = .running := (afterEmitAll_run _ _ _).trans h.run
  have henv : (afterEmitAll .ch0 (notification letter v i) s).env = [] := (afterEmitAll_env _ _ _).trans h.env
  have hstamp := access_notifyStamp (afterEmitAll .ch0 (notification letter v i) s) rest
  have hleft := (h.reaches_emitAll (.notifyStamp :: rest)).trans (.of_access hrun henv hstamp)
  simp only [afterEmitAll_last, afterEmitAll_msClock, afterEmitAll_drvLog] at hleft
  rw [notify, List.append_assoc]
  exact hleft.mono (by simp [notification])

/-- p3 and p4 of every changed pin. -/
theorem State.HasRoom.reaches_pins {letter v chg : Byte} {is : List Pin}
    (h : s.HasRoom .ch0 (pinsReport letter v chg is).length) (rest : List Micro) :
    (s.setMain ((is.flatMap fun i => if chg.getLsbD i.val then notify letter v i else []) ++ rest)).Reaches
      (11 * (pinsReport letter v chg is).length) ((afterReport (pinsReport letter v chg is) s).setMain rest) := by
  induction is generalizing s with
  | nil => exact .refl _
  | cons i is ih =>
    cases hi : chg.getLsbD i.val with
    | false =>
      have hskip : pinsReport letter v chg (i :: is) = pinsReport letter v chg is := by
        rw [pinsReport, List.flatMap_cons, hi]
        rfl
      rw [hskip] at h ⊢
      rw [List.flatMap_cons, hi]
      exact ih h
    | true =>
      have hcons : pinsReport letter v chg (i :: is) = notification letter v i ++ pinsReport letter v chg is := by
        simp [pinsReport, hi]
      rw [hcons, List.length_append] at h
      rw [hcons, ← afterReport_append, List.length_append, Nat.mul_add, List.flatMap_cons, hi, if_pos rfl,
        List.append_assoc]
      exact ((h.mono (Nat.le_add_right _ _)).reaches_notify _).trans (ih h.reported)

/-- p1: the sample is taken. -/
def afterSample (p : Nat) (s : State) : State := s.withMonitor s.last s.lastNotify (s.drvLog ++ [.sample p])

theorem access_pollPort {p : Nat} (hp : p < s.cfg.numPorts) (rest : List Micro) :
    access (.pollPort p) (s.setMain rest) = .next ((afterSample p s).setMain
      (notifyChanged (portLetter s.cfg p) (s.pinsOf p) (s.chgOf p) ++
        .lastStore p (s.pinsOf p) :: .pollPort (p + 1) :: rest)) :=
  (if_pos hp).trans (congrArg (fun ms => Host.Outcome.next ((afterSample p s).setMain ms)) (List.append_assoc ..))

theorem afterReport_afterSample (r : List Byte) (p : Nat) (s : State) :
    afterReport r (afterSample p s) =
      (afterEmitAll .ch0 r s).withMonitor s.last (s.stampAfter r) (s.drvLog ++ [.sample p]) := by
  simp only [afterReport, afterSample, afterEmitAll_withMonitor]
  rfl

/-- p1 to p5 of a port. -/
theorem State.HasRoom.reaches_port {p : Nat} (hp : p < s.cfg.numPorts) (h : s.HasRoom .ch0 (s.portReport p).length)
    (rest : List Micro) :
    (s.setMain (.pollPort p :: rest)).Reaches (11 * (s.portReport p).length + 2)
      ((afterPort p s).setMain (.pollPort (p + 1) :: rest)) := by
  have hsampled : (afterSample p s).HasRoom .ch0 (s.portReport p).length := h.withMonitor _ _ rfl
  have hreported : (afterReport (s.portReport p) (afterSample p s)).HasRoom .ch0 0 :=
    State.HasRoom.reported (r := s.portReport p) (n := 0) hsampled
  have hsample := State.Reaches.of_access h.run h.env (access_pollPort hp rest)
  have hpins := hsampled.reaches_pins (.lastStore p (s.pinsOf p) :: .pollPort (p + 1) :: rest)
  have hstored : access (.lastStore p (s.pinsOf p)) ((afterReport (s.portReport p) (afterSample p s)).setMain
      (.pollPort (p + 1) :: rest)) = .next ((afterPort p s).setMain (.pollPort (p + 1) :: rest)) := by
    rw [afterReport_afterSample]
    rfl
  have hstore := State.Reaches.of_access hreported.run hreported.env hstored
  exact ((hsample.trans hpins).trans hstore).mono (by rw [State.portReport]; omega)

theorem State.HasRoom.ports {m n : Nat} (hpins : m ≤ s.pinIn.length) (hlast : m ≤ s.last.length)
    (h : s.HasRoom .ch0 ((s.reportBelow m).length + n)) : (afterPorts m s).HasRoom .ch0 n :=
  State.HasRoom.withMonitor h.emittedAll _ _ (by simp; omega)

/-- Any number of ports. -/
theorem State.HasRoom.reaches_ports {m : Nat} (hm : m ≤ s.cfg.numPorts) (h : s.HasRoom .ch0 (s.reportBelow m).length)
    (rest : List Micro) :
    (s.setMain (.pollPort 0 :: rest)).Reaches (11 * (s.reportBelow m).length + 2 * m)
      ((afterPorts m s).setMain (.pollPort m :: rest)) := by
  induction m with
  | zero =>
    rw [afterPorts_zero]
    exact .refl _
  | succ m ih =>
    rw [s.reportBelow_succ, List.length_append] at h ⊢
    have hbefore := ih (by omega) (h.mono (by omega))
    have hpins := h.wf.pins
    have hlast := h.wf.last
    have hroom : (afterPorts m s).HasRoom .ch0 (s.portReport m).length := h.ports (by omega) (by omega)
    have hreport := afterPorts_portReport s (m := m) (by omega)
    have hcfg : (afterPorts m s).cfg = s.cfg := afterEmitAll_cfg .ch0 (s.reportBelow m) s
    have hport := State.HasRoom.reaches_port (p := m) (by rw [hcfg]; omega) (hreport ▸ hroom) rest
    rw [hreport, afterPort_afterPorts s (by omega) (by omega)] at hport
    exact (hbefore.trans hport).mono (by omega)

/-- The whole poll, wherever `MAIN` calls it. -/
theorem State.HasRoom.reaches_pmPoll (h : s.HasRoom .ch0 s.pollReport.length) (rest : List Micro) :
    (s.setMain (.call .pmPoll :: rest)).Reaches (11 * s.pollReport.length + 2 * s.cfg.numPorts + 2)
      ((afterPorts s.cfg.numPorts s).setMain rest) := by
  rw [s.pollReport_eq] at h ⊢
  have hpins := h.wf.pins
  have hlast := h.wf.last
  have hdone : (afterPorts s.cfg.numPorts s).HasRoom .ch0 0 := h.ports (by omega) (by omega)
  have hcfg : (afterPorts s.cfg.numPorts s).cfg = s.cfg := afterEmitAll_cfg .ch0 (s.reportBelow s.cfg.numPorts) s
  have hcall : access (.call .pmPoll) (s.setMain rest) = .next (s.setMain (.pollPort 0 :: rest)) := rfl
  have hlastPort : access (.pollPort s.cfg.numPorts) ((afterPorts s.cfg.numPorts s).setMain rest) =
      .next ((afterPorts s.cfg.numPorts s).setMain rest) := if_neg (by rw [State.setMain_cfg, hcfg]; omega)
  exact (((State.Reaches.of_access h.run h.env hcall).trans (h.reaches_ports le_rfl rest)).trans
    (.of_access hdone.run hdone.env hlastPort)).mono (by omega)

end

theorem numPorts_le_configSize (cfg : Config) : cfg.numPorts ≤ configSize cfg := by
  simp only [Config.numPorts, configSize]
  omega

theorem exec_pmPoll {s : State} (hrest : s.atRest) (h : s.HasRoom .ch0 s.pollReport.length) :
    exec .pmPoll s = .next (afterPorts s.cfg.numPorts s) := by
  have hmain : (afterPorts s.cfg.numPorts s).main = [] := (afterEmitAll_main ..).trans hrest.main
  have hpoll := h.reaches_pmPoll []
  rw [← hmain, State.setMain_main_self, hmain] at hpoll
  refine byMain_of_reaches hrest hpoll ?_ hmain
  have hroom := h.room
  have hcap : s.capacity (.tx .ch0) ≤ configSize s.cfg := capacity_le_configSize _ _
  have hports : s.cfg.numPorts ≤ configSize s.cfg := numPorts_le_configSize _
  rw [State.room] at hroom
  omega

/-! ### The clock -/

theorem toNat_sub_mod (now last : Byte) : (now - last).toNat = (now.toNat + 256 - last.toNat) % 256 := by
  rw [BitVec.toNat_sub]
  congr 1
  omega

theorem pollDue_iff (now last : Byte) : pollDue now last = true ↔ 20 ≤ (now.toNat + 256 - last.toNat) % 256 := by
  rw [pollDue, decide_eq_true_iff, toNat_sub_mod]

theorem tickHandler_eq {s : State} (hi : s.ie = true) (hisr : s.isrActive = false) :
    tickHandler s = .next { s with msClock := s.msClock + 1#8 } := by
  have hmay : s.interruptible = true := by simp [State.interruptible, hi, hisr]
  refine (if_pos hmay).trans (congrArg Host.Outcome.next ?_)
  rw [← hisr]

/-! ### The obligations -/

/-- Settles O33: one access, which ors the pin's bit in, masks it out, or is refused. -/
theorem watchAndUnwatchChangeMaskBit : Obligations.WatchAndUnwatchChangeMaskBit := by
  intro s p i _ hrest
  refine ⟨fun hp => ⟨⟨_, exec_pmWatch hrest i hp, fun j => ?_⟩, ⟨_, exec_pmUnwatch hrest i hp, fun j => ?_⟩⟩,
    fun hp => ⟨byMain_refused hrest (if_neg hp.not_gt), byMain_refused hrest (if_neg hp.not_gt)⟩⟩
  · rw [BitVec.getLsbD_or, pinMask_getLsbD]
  · rw [BitVec.getLsbD_and, BitVec.getLsbD_not, pinMask_getLsbD]
    simp [bne]

/-- Settles O34: after all the ports, what the reports, the samples and the stamp have left. -/
theorem pollReportsChangesAndSamples : Obligations.PollReportsChangesAndSamples := by
  intro s bs hs hrest hi hbs hroom
  have hexec := exec_pmPoll hrest ⟨hrest.run, hrest.env, hi, hs, hroom⟩
  rw [State.pollReport_eq] at hroom ⊢
  have hlast : s.pinIn.take s.cfg.numPorts ++ s.last.drop s.cfg.numPorts = s.pinIn := by
    rw [← hs.pins, List.take_length, hs.pins, ← hs.last, List.drop_length, List.append_nil]
  have hirq : (afterPorts s.cfg.numPorts s).txIrqEn = (afterEmitAll .ch0 (s.reportBelow s.cfg.numPorts) s).txIrqEn := rfl
  refine ⟨_, hexec, afterEmitAll_holds hs hbs hroom, hlast, rfl, ?_, rfl, ?_, afterEmitAll_rd .ch0 _ s,
    afterEmitAll_sameTxBut .ch0 _ hs⟩
  · rw [hirq]
    cases s.reportBelow s.cfg.numPorts with
    | nil => rfl
    | cons b more => exact afterEmitAll_txIrqEn b more s
  · exact afterPorts_frame s s.cfg.numPorts

/-- Settles O35: a byte difference is the difference modulo 256. -/
theorem pollDueByUnsignedDifference : Obligations.PollDueByUnsignedDifference := by
  refine ⟨pollDue_iff, fun last elapsed hdue => ?_⟩
  rw [pollDue_iff, BitVec.toNat_ofNat] at hdue
  have := last.isLt
  omega

/-- Settles O36: the handler of the timer runs exactly when it may start. -/
theorem tickAdvancesClock : Obligations.TickAdvancesClock := by
  refine fun s => ⟨fun hi hisr => ?_, fun hnot => if_neg ?_⟩
  · have hclock : s.msClock + 1#8 = BitVec.ofNat 8 ((s.msClock.toNat + 1) % 256) := BitVec.eq_of_toNat_eq (by simp)
    rw [← hclock]
    exact tickHandler_eq hi hisr
  · rcases hnot with h | h <;> simp [State.interruptible, h]

end Sys2Proof.Machine
end

section
/-!
The obligations of 44_dispatcher on what a command does: the driver action and the answer (R213 to R223), `CMD.Z` (R212), and
`CD.DISPATCH` (R211).
-/
namespace Sys2Proof.Machine

/-! ### The operands of a valid line -/

theorem getElem?_of_indexIn {ls : List Byte} {b : Byte} {p : Nat} (h : indexIn ls b = some p) : ls[p]? = some b := by
  induction ls generalizing p with
  | nil => cases h
  | cons l ls ih =>
    unfold indexIn at h
    split at h
    · rename_i hl
      obtain rfl := Option.some.inj h
      exact congrArg some hl
    · obtain ⟨j, hj, rfl⟩ := Option.map_eq_some_iff.mp h
      exact ih hj

/-- `PORTS[port_index(letter)] = letter` (30_encoding R102). -/
theorem portLetter_portIndex {cfg : Config} {letter : Byte} {p : Nat} (h : portIndex cfg letter = some p) :
    portLetter cfg p = letter := by
  rw [portLetter, List.getD_eq_getElem?_getD, getElem?_of_indexIn h, Option.getD_some]

theorem g3Operands_ok {port pin : Byte} {more : List Byte} {i : Pin} (h : pinIndex pin = some i) :
    g3Operands (port :: pin :: more) = .ok (port, pin, i) := by
  simp only [g3Operands, h]

/-- With a valid pin digit and port letter a defined command acts. -/
theorem withPort_ok {s : State} {act : Byte → Byte → Pin → Nat → Res} {port pin : Byte} {more : List Byte} {i : Pin}
    {p : Nat} (hpin : pinIndex pin = some i) (hport : portIndex s.cfg port = some p) :
    withPort (port :: pin :: more) s act = act port pin i p := by
  simp only [withPort, g3Operands_ok hpin, hport]

/-- `drv_read_pin` gives the pin's bit in place, 0 or `2^i` (10_state R42). -/
theorem readPin_eq (s : State) (p : Nat) (i : Pin) :
    s.readPin p i = if (s.pinsOf p).getLsbD i.val then BitVec.ofNat 16 (2 ^ i.val) else 0#16 := by
  have hmask : (pinMask i).setWidth 16 = BitVec.ofNat 16 (2 ^ i.val) := by
    revert i
    decide
  have hbit : s.pinsOf p &&& pinMask i = if (s.pinsOf p).getLsbD i.val then pinMask i else 0#8 :=
    BitVec.and_twoPow (s.pinsOf p) i.val
  rw [State.readPin, hbit, apply_ite (BitVec.setWidth 16), hmask, BitVec.setWidth_zero]

/-- A draw takes nothing but the draw (log 11). -/
theorem drawAdc_frame (s : State) :
    (drawAdc s).2 = { s with adcIn := (drawAdc s).2.adcIn, draws := (drawAdc s).2.draws } := by
  unfold drawAdc
  split <;> rfl

theorem drawAdc_decided {s : State} {x : Word16} {xs : List Word16} (h : s.adcIn = x :: xs) :
    (drawAdc s).1 = x ∧ (drawAdc s).2.adcIn = xs := by
  simp only [drawAdc, h, and_self]

/-! ### A command executed alone -/

section
variable {s t u v : State} {i : Instr} {c k : Channel} {n b : Nat} {bs : List Byte}

theorem State.atRest.setMain_nil (hrest : s.atRest) : s.setMain [] = s := by rw [← hrest.main, State.setMain_main_self]

/-- The first access of an operation executed alone is its first line. -/
theorem runTurns_of_call (hrest : s.atRest) (hcall : callInstr i s = .next u) (n : Nat) :
    runTurns (n + 1) (s.setMain [.call i]) = runTurns n u := by
  rw [runTurns_call hrest.run hrest.env, hrest.setMain_nil, hcall, andThen_next]

/-- An operation whose first line leaves `u` comes to the end of what `u` has to do. -/
theorem byMain_of_call (hrest : s.atRest) (hcall : callInstr i s = .next u) (hu : u.Reaches b t)
    (hb : 1 + b < 1000 * (configSize s.cfg + 1)) (ht : t.main = []) : byMain i s = .next t := by
  have hfirst : (s.setMain [.call i]).Reaches 1 u := ⟨1, le_rfl, runTurns_of_call hrest hcall⟩
  exact byMain_of_reaches hrest (hfirst.trans hu) hb ht

/-- Room on a channel is left alone by output on another. -/
theorem State.HasRoom.emittedOn (h : s.HasRoom c n) (hne : c ≠ k) (bs : List Byte) : (afterEmitAll k bs s).HasRoom c n where
  run := (afterEmitAll_run k bs s).trans h.run
  env := (afterEmitAll_env k bs s).trans h.env
  ie := (congrArg (·.ie) (afterEmitAll_frame k bs s) :).trans h.ie
  wf := h.wf.afterEmitAll k bs
  room := by
    have hring := afterEmitAll_ring_ne (q := .tx c) (c := k) (fun hq => hne (Queue.mk.inj hq).1) bs s
    rw [State.room, State.count, hring, State.capacity_of_cfg _ (afterEmitAll_cfg k bs s)]
    exact h.room

/-- What a driver action or a change of a mask leaves has the room `s` has. -/
theorem State.HasRoom.acted (h : s.HasRoom c n) (hv : s.Keeps v) (run : v.run = s.run := by rfl) (ie : v.ie = s.ie := by rfl)
    (tx : v.tx = s.tx := by rfl) : v.HasRoom c n where
  run := run.trans h.run
  env := hv.env.trans h.env
  ie := ie.trans h.ie
  wf := h.wf.keeps hv
  room := by
    have hring : v.ring (.tx c) = s.ring (.tx c) := congrArg (Four.get · c) tx
    rw [State.room, State.count, hring, State.capacity_of_cfg _ hv.cfg]
    exact h.room

theorem State.HasRoom.length_lt (h : s.HasRoom c n) : n < configSize s.cfg := by
  have hroom := h.room
  have hcap : s.capacity (.tx c) ≤ configSize s.cfg := capacity_le_configSize _ _
  rw [State.room] at hroom
  omega

/-- A command that has acted, leaving `v`, and has room for its answer. -/
theorem byMain_answers (hrest : s.atRest) (hv : v.HasRoom .ch0 bs.length)
    (hcall : callInstr i s = .next (v.push (emitAll .ch0 bs))) (cfg : v.cfg = s.cfg := by rfl)
    (main : v.main = s.main := by rfl) : byMain i s = .next (afterEmitAll .ch0 bs v) := by
  have hmain : v.main = [] := main.trans hrest.main
  have hdone : (afterEmitAll .ch0 bs v).main = [] := (afterEmitAll_main _ _ _).trans hmain
  have hemit := hv.reaches_emitAll []
  rw [← hdone, State.setMain_main_self, hdone, ← hmain] at hemit
  have hlen := cfg ▸ hv.length_lt
  exact byMain_of_call hrest hcall hemit (by omega) hdone

/-- A `FWD` command with a payload, and room on both channels. -/
theorem byMain_forwards {digit : Byte} {payload : List Byte} (hrest : s.atRest)
    (hcall : callInstr i s = forward k digit payload s) (hne : .ch0 ≠ k) (hpayload : payload ≠ []) (hk : s.HasRoom k (payload.length + 2))
    (h0 : s.HasRoom .ch0 (payload.length + 4)) :
    byMain i s = .next (afterEmitAll .ch0 (forwardEcho (digit :: payload)) (afterEmitAll k (forwardPayload payload) s)) := by
  have hlen0 : (forwardEcho (digit :: payload)).length = payload.length + 4 := by simp [forwardEcho]
  have hlenk : (forwardPayload payload).length = payload.length + 2 := by simp [forwardPayload]
  have hdone : (afterEmitAll .ch0 (forwardEcho (digit :: payload)) (afterEmitAll k (forwardPayload payload) s)).main = [] :=
    (afterEmitAll_main _ _ _).trans ((afterEmitAll_main _ _ _).trans hrest.main)
  have hsend := (hlenk ▸ hk : s.HasRoom k (forwardPayload payload).length).reaches_emitAll
    (emitAll .ch0 (forwardEcho (digit :: payload)) ++ [])
  have hecho := ((hlen0 ▸ h0 : s.HasRoom .ch0 (forwardEcho (digit :: payload)).length).emittedOn hne
    (forwardPayload payload)).reaches_emitAll []
  rw [← hdone, State.setMain_main_self, hdone] at hecho
  have hpush : callInstr i s = .next (s.setMain (emitAll k (forwardPayload payload) ++
      (emitAll .ch0 (forwardEcho (digit :: payload)) ++ []))) := by
    rw [hcall, forward, if_neg hpayload, State.push, hrest.main, List.append_assoc]
  have hbound := h0.length_lt
  exact byMain_of_call hrest hpush (hsend.trans hecho) (by omega) hdone

end

/-! ### The obligations on the commands -/

/-- Settles O41: each command records its driver action and answers. -/
theorem pinCommandsActAndRespond : Obligations.PinCommandsActAndRespond := by
  intro s port pin more p i hs hrest hi hroom hport hpin
  have hacted (a : DrvAction) : (s.logDrv a).HasRoom .ch0 6 :=
    State.HasRoom.acted ⟨hrest.run, hrest.env, hi, hs, hroom⟩ (.same .refl)
  exact ⟨byMain_answers hrest (hacted _) (withPort_ok hpin hport),
    byMain_answers hrest (hacted _) (withPort_ok hpin hport),
    byMain_answers hrest (hacted _) (withPort_ok hpin hport),
    byMain_answers hrest (hacted _) (withPort_ok hpin hport)⟩

/-- Settles O42: the answer carries what `readPin_eq` says of the pin. -/
theorem digitalReadReportsPinBit : Obligations.DigitalReadReportsPinBit := by
  intro s port pin more p i hs hrest hi hroom hport hpin
  have hacted : (s.logDrv (.readPin p i)).HasRoom .ch0 10 :=
    State.HasRoom.acted ⟨hrest.run, hrest.env, hi, hs, hroom⟩ (.same .refl)
  rw [← readPin_eq]
  exact byMain_answers hrest hacted (withPort_ok hpin hport)

/-- Settles O43: the port's letter is the one of the line, so the test is the statement's. -/
theorem analogReadReportsSample : Obligations.AnalogReadReportsSample := by
  intro s port pin more p i hs hrest hport hpin
  have hletter := portLetter_portIndex hport
  refine ⟨fun hanalog hi hroom => ?_, fun hdigital ⟨w, hw⟩ => ?_⟩
  · have hframe := drawAdc_frame s
    have hacted : ((drawAdc s).2.logDrv (.readAnalog p i)).HasRoom .ch0 10 :=
      State.HasRoom.acted ⟨hrest.run, hrest.env, hi, hs, hroom⟩ (.same (drawAdc_keeps s)) (congrArg (·.run) hframe)
        (congrArg (·.ie) hframe) (congrArg (·.tx) hframe)
    refine ⟨(drawAdc s).1, (drawAdc s).2, ?_, hframe, fun x xs => drawAdc_decided⟩
    exact byMain_answers hrest hacted ((withPort_ok hpin hport).trans (if_pos (hletter.symm ▸ hanalog)))
      (congrArg (·.cfg) hframe) (congrArg (·.main) hframe)
  · obtain ⟨t, ht, hfatal, hlog, _⟩ := byMain_raiseFatal (i := .cmdA (port :: pin :: more)) hs hrest hw
      ((withPort_ok hpin hport).trans (if_neg (hletter.symm ▸ hdigital)))
    exact ⟨t, ht, hfatal, hlog⟩

/-- Settles O44: `PM.WATCH` or `PM.UNWATCH`, then the answer. -/
theorem watchCommandsUpdateMask : Obligations.WatchCommandsUpdateMask := by
  intro s port pin more p i hs hrest hi hroom hport hpin
  have hroom : s.HasRoom .ch0 6 := ⟨hrest.run, hrest.env, hi, hs, hroom⟩
  exact ⟨byMain_answers hrest (hroom.acted (watchPin_keeps p i s)) (withPort_ok hpin hport),
    byMain_answers hrest (hroom.acted (unwatchPin_keeps p i s)) (withPort_ok hpin hport)⟩

/-- Settles O45: the answer alone. -/
theorem unknownCommandIsEchoed : Obligations.UnknownCommandIsEchoed := by
  intro s op port pin more i hs hrest hi hroom hpin
  have hcall : callInstr (.cmdUnk op (port :: pin :: more)) s = respond op port pin s := by
    simp only [callInstr, startCmdUnk, g3Operands_ok hpin]
  exact byMain_answers hrest ⟨hrest.run, hrest.env, hi, hs, hroom⟩ hcall

/-- Settles O46: the payload's channel is not the control channel, so the one's output leaves the other's room. -/
theorem forwardSendsPayloadAndEcho : Obligations.ForwardSendsPayloadAndEcho := by
  intro s payload hs hrest
  refine ⟨fun hpayload _ hi hroom => ?_, fun ⟨w, hw⟩ i hmem => ?_⟩
  · have hhas {c : Channel} {n : Nat} (h : s.room c n) : s.HasRoom c n := ⟨hrest.run, hrest.env, hi, hs, h⟩
    exact ⟨fun h => byMain_forwards hrest rfl nofun hpayload (hhas h) (hhas hroom),
      fun h => byMain_forwards hrest rfl nofun hpayload (hhas h) (hhas hroom),
      fun h => byMain_forwards hrest rfl nofun hpayload (hhas h) (hhas hroom)⟩
  · have hempty : exec i s = byMain i s ∧ callInstr i s = .next (raiseFatal .emptyPayload s) := by
      simp only [List.mem_cons, List.not_mem_nil, or_false] at hmem
      rcases hmem with rfl | rfl | rfl <;> exact ⟨rfl, rfl⟩
    obtain ⟨hexec, hcall⟩ := hempty
    obtain ⟨t, ht, hfatal, _⟩ := byMain_raiseFatal hs hrest hw hcall
    exact ⟨t, hexec.trans ht, hfatal⟩

/-- `CMD.Z` is one access (44_dispatcher R212). -/
theorem callInstr_cmdZ {s : State} (hrest : s.atRest) :
    callInstr .cmdZ s = .next { s with wdtArmed := true, run := .resetWait } := by
  rw [hrest.main]
  rfl

/-- Settles O48. -/
theorem resetCommandStopsMain : Obligations.ResetCommandStopsMain := fun _ hrest =>
  byMain_of_call hrest (callInstr_cmdZ hrest) (.refl _) (by omega) hrest.main

/-! ### `CD.DISPATCH` -/

/-- A line decodes to a command whose text it is (30_encoding R95, R97). -/
theorem lineText_of_decodeLine {bytes : List Byte} {i : Instr} (h : decodeLine bytes = .ok i) : i.lineText = bytes := by
  cases bytes with
  | nil => cases h
  | cons op args =>
    simp only [decodeLine] at h
    split at h
    case h_13 =>
      cases h
      rfl
    all_goals
      rename_i hop
      obtain rfl := (BitVec.toNat_eq_nat.mp hop).2
    case h_12 =>
      split at h <;> cases h
      · rename_i hargs
        exact hargs ▸ rfl
      · rfl
    all_goals
      cases h
      rfl

/-- A command of a line is an operation of `MAIN`. -/
theorem exec_command {i : Instr} (h : i.lineText ≠ []) (s : State) : exec i s = byMain i s := by
  cases i with
  | cmdZ | cmdFwd1 | cmdFwd2 | cmdFwd3 | cmdH | cmdL | cmdU | cmdD | cmdI | cmdA | cmdM | cmdN | cmdUnk => rfl
  | _ => exact absurd rfl h

section
variable {s t : State} {bytes : List Byte} {i : Instr} (hrest : s.atRest)
include hrest

theorem callInstr_cdDispatch (hready : (s.lf.get .ch0).ready = true) (hline : lineOf .ch0 s = .ok bytes)
    (hi : decodeLine bytes = .ok i) : callInstr .cdDispatch s = .next (s.setMain [.call i]) := by
  simp only [callInstr, startCdDispatch, hready, hline, hi, if_true, State.push, hrest.main, List.append_nil]

/-- An operation that settles within the turns of `s` answers what it settles in (log 7). -/
theorem byMain_of_runTurns {n : Nat} (hn : n ≤ s.budget) (hrun : runTurns n (s.setMain [.call i]) = .next t)
    (ht : t.settled = true) : byMain i s = .next t := by
  have hbudget : s.budget ≤ (s.setMain [.call i]).budget := by
    simp only [State.budget, hrest.main, State.setMain_cfg, State.setMain_env, State.setMain_main, List.length_nil]
    omega
  rw [byMain, if_pos hrest.run, hrest.main, List.nil_append]
  exact runTurns_of_settled (hn.trans hbudget) hrun ht

/-- One access of `CD.DISPATCH` stands before the command. -/
theorem exec_cdDispatch {n : Nat} (hready : (s.lf.get .ch0).ready = true) (hline : lineOf .ch0 s = .ok bytes)
    (hi : decodeLine bytes = .ok i) (hn : n < s.budget) (hrun : runTurns n (s.setMain [.call i]) = .next t)
    (ht : t.settled = true) : exec .cdDispatch s = .next t := by
  have hcall := callInstr_cdDispatch hrest hready hline hi
  exact byMain_of_runTurns hrest hn ((runTurns_of_call hrest hcall n).trans hrun) ht

end

/-- Settles O50: the turns of a step are enough for `CD.DISPATCH`'s access and the command. -/
theorem dispatchRunsTheReadyLine : Obligations.DispatchRunsTheReadyLine := by
  refine ⟨fun s t bytes i n hrest hready hline hi hn hrun ht => ?_, fun s hrest hready hline => ?_,
    fun s hrest hready => ?_⟩
  · have hcommand : i.lineText ≠ [] := by
      rw [lineText_of_decodeLine hi]
      rintro rfl
      cases hi
    rw [exec_command hcommand]
    exact ⟨byMain_of_runTurns hrest hn.le hrun ht, exec_cdDispatch hrest hready hline hi hn hrun ht⟩
  · exact exec_cdDispatch hrest hready hline rfl (by unfold State.budget; omega)
      (runTurns_of_call hrest (callInstr_cmdZ hrest) 0) (settled_of_done hrest.main)
  · exact byMain_refused hrest (if_neg (by simp [hready]))

end Sys2Proof.Machine
end

section
/-!
The frame of the commands that answer a line (44_dispatcher R213 to R223, "Writes"), from any state at rest, well formed or
not: the first line acts and queues the answer or a fatal error (`State.Acted`), and every access from there on is one of
`CH.TX` on a channel that is answered, or of the fatal report (`Micro.answers`).
-/
namespace Sys2Proof.Machine

/-! ### The accesses of a transmit -/

/-- The positions of `CH.TX` on channel `c`, whatever `I` is, but for those of `Micro.storeless`. -/
def Micro.emits (c : Channel) : Micro → Bool
  | .call (.chTx d _) => d == c
  | .call (.rbPush q _) => q == .tx c
  | .pushRd q _ _ => q == .tx c
  | .pushStore q _ _ => q == .tx c
  | .pushWr q _ => q == .tx c
  | .txWait d _ => d == c
  | .txWaited d _ => d == c
  | .txEnable d => d == c
  | .txMakeRoom d _ => d == c
  | _ => false

/-- The positions of `CH.TX` on channel `c`. -/
def Micro.transmits (c : Channel) (m : Micro) : Bool := m.storeless c true || m.emits c

/-- What an access at such a position leaves. -/
structure State.Transmitted (c : Channel) (s t : State) : Prop where
  frame : s.TransmitFrame c t
  main : ∀ m ∈ t.main, m ∈ s.main ∨ m.transmits c = true

section
variable {c : Channel} {s t : State}

theorem Micro.transmits_iff {m : Micro} : m.transmits c = true ↔ m.storeless c true = true ∨ m.emits c = true :=
  Bool.or_eq_true_iff

theorem State.MaskedFrame.transmitted (h : s.MaskedFrame c t) (main : t.main = s.main := by rfl) : s.Transmitted c t :=
  ⟨h.transmitFrame, fun _ hm => .inl (main ▸ hm)⟩

theorem State.Transmitted.push (ms : List Micro)
    (hms : ∀ m ∈ ms, m.transmits c = true := by simp [Micro.transmits, Micro.storeless, Micro.emits]) :
    s.Transmitted c (s.push ms) :=
  ⟨(State.MaskedFrame.same).transmitFrame, fun m hm => (List.mem_append.mp hm).symm.imp_right (hms m)⟩

theorem State.Storeless.transmitted (h : s.Storeless c true t) : s.Transmitted c t := by
  obtain ⟨ms, hmain, hms⟩ := h.main
  refine ⟨h.frame.transmitFrame, fun m hm => ?_⟩
  rw [hmain] at hm
  exact (List.mem_append.mp hm).symm.imp_right fun hm => Micro.transmits_iff.mpr (.inl (hms m hm))

theorem access_emits {m : Micro} (hm : m.emits c = true) (s : State) : Res.All (access m s) (s.Transmitted c) := by
  cases m with
  | call i =>
    cases i with
    | chTx d =>
      obtain rfl := beq_iff_eq.mp hm
      exact Res.all_ite (fun _ => Res.all_next (.push _)) fun _ => Res.all_next (.push _)
    | rbPush q =>
      obtain rfl := beq_iff_eq.mp hm
      exact Res.all_next (.push _)
    | _ => cases hm
  | pushRd q =>
    obtain rfl := beq_iff_eq.mp hm
    exact Res.all_ite (fun _ => Res.all_next (State.MaskedFrame.same).transmitted) fun _ => Res.all_next (.push _)
  | pushStore q b w =>
    obtain rfl := beq_iff_eq.mp hm
    refine Res.all_andThen fun t ht => ?_
    obtain ⟨_, rfl⟩ := writeSlot_next ht
    refine Res.all_next ⟨((State.MaskedFrame.setRing s c _).trans .same).transmitFrame, fun m hm => ?_⟩
    obtain rfl | hm := List.mem_cons.mp hm
    · exact .inr (Micro.transmits_iff.mpr (.inr (beq_self_eq_true (Queue.tx c))))
    · exact .inl hm
  | pushWr q =>
    obtain rfl := beq_iff_eq.mp hm
    exact Res.all_next ((State.MaskedFrame.setRing s c _).trans .same).transmitted
  | txWait d =>
    obtain rfl := beq_iff_eq.mp hm
    exact Res.all_next (.push _)
  | txWaited d | txMakeRoom d =>
    obtain rfl := beq_iff_eq.mp hm
    exact Res.all_ite (fun _ => Res.all_next (.push _)) fun _ => Res.all_next (.push _)
  | txEnable d =>
    obtain rfl := beq_iff_eq.mp hm
    exact Res.all_next ⟨⟨fun _ _ => rfl, fun _ hd => ⟨Four.get_set_ne _ _ hd, rfl, rfl⟩, rfl⟩, fun _ => .inl⟩
  | _ => cases hm

/-- Any access of a transmit. -/
theorem access_transmits {m : Micro} (hm : m.transmits c = true) (s : State) : Res.All (access m s) (s.Transmitted c) := by
  obtain hstoreless | hemits := Micro.transmits_iff.mp hm
  · exact (access_storeless hstoreless fun _ => rfl).imp fun _ => State.Storeless.transmitted
  · exact access_emits hemits s

end

/-! ### The accesses of an answer -/

/-- The positions of `SYS.FATAL` but for its transmits (60_exceptions R274 h1, h3, h4). -/
def Micro.ofFatal : Micro → Bool
  | .call (.sysFatal _) => true
  | .fatalArm => true
  | .fatalHalt _ => true
  | _ => false

/-- The positions of `CH.TX` on the control channel or on channel `k`, and those of `SYS.FATAL`. -/
def Micro.answers (k : Channel) (m : Micro) : Bool := m.ofFatal || (m.transmits .ch0 || m.transmits k)

/-- `t` differs from `s` only in what an answer on the control channel and on channel `k`, or the fatal report, writes. -/
structure State.AnswerFrame (k : Channel) (s t : State) : Prop where
  channels : ∀ d, d ≠ .ch0 → d ≠ k → t.ring (.tx d) = s.ring (.tx d) ∧ t.txIrqEn.get d = s.txIrqEn.get d ∧
    t.wireOut.get d = s.wireOut.get d
  rest : t = { s with tx := t.tx, txIrqEn := t.txIrqEn, txReady := t.txReady, wireOut := t.wireOut, ie := t.ie,
                      main := t.main, ret := t.ret, run := t.run, wdtArmed := t.wdtArmed }

/-- What an access at such a position leaves. -/
structure State.Answered (k : Channel) (s t : State) : Prop where
  frame : s.AnswerFrame k t
  main : ∀ m ∈ t.main, m ∈ s.main ∨ m.answers k = true

section
variable {k c : Channel} {s t u : State}

theorem Micro.answers_iff {m : Micro} :
    m.answers k = true ↔ m.ofFatal = true ∨ ∃ c, (c = .ch0 ∨ c = k) ∧ m.transmits c = true := by
  simp [Micro.answers, or_and_right, exists_or]

theorem Micro.answers_of_transmits {m : Micro} (h : m.transmits c = true) (hc : c = .ch0 ∨ c = k) : m.answers k = true :=
  Micro.answers_iff.mpr (.inr ⟨c, hc, h⟩)

theorem answers_emitAll (hc : c = .ch0 ∨ c = k) (bs : List Byte) : ∀ m ∈ emitAll c bs, m.answers k = true := by
  intro m hm
  obtain ⟨b, _, rfl⟩ := List.mem_map.mp hm
  exact Micro.answers_of_transmits (Micro.transmits_iff.mpr (.inr (beq_self_eq_true c))) hc

/-- `I`, the position, the run state and the watchdog may take any value. -/
theorem State.AnswerFrame.same (ie : Bool) (ms : List Micro) (run : RunState) (armed : Bool) :
    s.AnswerFrame k { s with ie := ie, main := ms, run := run, wdtArmed := armed } :=
  ⟨fun _ _ _ => ⟨rfl, rfl, rfl⟩, rfl⟩

theorem State.AnswerFrame.trans (h : s.AnswerFrame k t) (g : t.AnswerFrame k u) : s.AnswerFrame k u where
  channels d h0 hk := by
    obtain ⟨hring, hirq, hwire⟩ := h.channels d h0 hk
    obtain ⟨gring, girq, gwire⟩ := g.channels d h0 hk
    exact ⟨gring.trans hring, girq.trans hirq, gwire.trans hwire⟩
  rest := by
    rw [g.rest, h.rest]

theorem State.Transmitted.answered (h : s.Transmitted c t) (hc : c = .ch0 ∨ c = k) : s.Answered k t where
  frame :=
    { channels := fun d h0 hk => by
        have hd : d ≠ c := by rintro rfl; exact hc.elim h0 hk
        obtain ⟨hirq, _, hwire⟩ := h.frame.channels d hd
        exact ⟨h.frame.rings _ fun hq => hd (Queue.mk.inj hq).1, hirq, hwire⟩
      rest := by
        rw [h.frame.rest] }
  main m hm := (h.main m hm).imp_right fun hm => Micro.answers_of_transmits hm hc

/-- h1, h3 and h4 of the fatal handler. -/
theorem access_ofFatal {m : Micro} (hm : m.ofFatal = true) (s : State) : Res.All (access m s) (s.Answered k) := by
  cases m with
  | call i =>
    cases i with
    | sysFatal kind =>
      refine Res.all_next ⟨.same _ _ _ _, fun m hm => .inr ?_⟩
      obtain hm | hm := List.mem_append.mp hm
      · exact answers_emitAll (.inl rfl) _ m hm
      · refine Micro.answers_iff.mpr (.inl ?_)
        obtain rfl | rfl : m = .fatalArm ∨ m = .fatalHalt kind := by simpa using hm
        · rfl
        · rfl
    | _ => cases hm
  | fatalArm =>
    show Res.All (atFatalArm s) _
    unfold atFatalArm
    split <;> exact Res.all_next ⟨.same _ _ _ _, fun _ => .inl⟩
  | fatalHalt kind => exact Res.all_next ⟨.same _ _ _ _, nofun⟩
  | _ => cases hm

/-- Any access of an answer or of the fatal report. -/
theorem access_answers {m : Micro} (hm : m.answers k = true) (s : State) : Res.All (access m s) (s.Answered k) := by
  obtain hfatal | ⟨c, hc, htransmits⟩ := Micro.answers_iff.mp hm
  · exact access_ofFatal hfatal s
  · exact (access_transmits htransmits s).imp fun _ h => h.answered hc

/-- A run of `MAIN` alone that has only an answer left to do. -/
theorem runTurns_answers {n : Nat} (henv : s.env = []) (hs : ∀ m ∈ s.main, m.answers k = true)
    (h : runTurns n s = .next t) : s.AnswerFrame k t := by
  have hkept := runTurns_alone (P := fun u => s.AnswerFrame k u ∧ ∀ m ∈ u.main, m.answers k = true)
    (fun u hu => (congrArg (·.env) hu.1.rest).trans henv) (fun {u m rest} hu hmain v hv => ?_) ⟨.same _ _ _ _, hs⟩ h
  · exact hkept.1
  · obtain ⟨hframe, hanswers⟩ := hu
    rw [hmain] at hanswers
    obtain ⟨hm, hrest⟩ := List.forall_mem_cons.mp hanswers
    have hstep := access_answers hm (u.setMain rest) v hv
    exact ⟨hframe.trans (.trans (.same _ rest _ _) hstep.frame), fun x hx => (hstep.main x hx).elim (hrest x) id⟩

end

/-! ### The first line of a command -/

/-- The channel a command sends to besides the control channel (44_dispatcher R213); the control channel for one that
forwards nothing. -/
def sendsTo : Instr → Channel
  | .cmdFwd1 _ => .ch1
  | .cmdFwd2 _ => .ch2
  | .cmdFwd3 _ => .ch3
  | _ => .ch0

/-- What the first line of command `i` leaves: at most one driver action, at most one mask changed by `M` or `N`, draws taken,
and an answer or a fatal error to come. -/
structure State.Acted (i : Instr) (s t : State) : Prop where
  rest : t = { s with mask := t.mask, drvLog := t.drvLog, adcIn := t.adcIn, draws := t.draws, main := t.main }
  drvLog : t.drvLog = s.drvLog ∨ ∃ a, t.drvLog = s.drvLog ++ [a]
  mask : t.mask = s.mask ∨ ∃ port pin more p m, (i = .cmdM (port :: pin :: more) ∨ i = .cmdN (port :: pin :: more)) ∧
    portIndex s.cfg port = some p ∧ t.mask = s.mask.set p m
  main : ∀ m ∈ t.main, m ∈ s.main ∨ m.answers (sendsTo i) = true

section
variable {i : Instr} {s t : State}

theorem State.Acted.refl : s.Acted i s := ⟨rfl, .inl rfl, .inl rfl, fun _ => .inl⟩

theorem State.Acted.logDrv (a : DrvAction) : s.Acted i (s.logDrv a) := ⟨rfl, .inr ⟨a, rfl⟩, .inl rfl, fun _ => .inl⟩

theorem State.Acted.raiseFatal (kind : FatalKind) : s.Acted i (raiseFatal kind s) :=
  ⟨rfl, .inl rfl, .inl rfl, fun _ hm => .inr (List.mem_singleton.mp hm ▸ rfl)⟩

theorem State.Acted.push (h : s.Acted i t) {ms : List Micro} (hms : ∀ m ∈ ms, m.answers (sendsTo i) = true) :
    s.Acted i (t.push ms) where
  rest := congrArg (·.push ms) h.rest
  drvLog := h.drvLog
  mask := h.mask
  main m hm := (List.mem_append.mp hm).elim (fun hm => .inr (hms m hm)) (h.main m)

theorem State.Acted.respond (h : s.Acted i t) {op port pin : Byte} : Res.All (respond op port pin t) (s.Acted i) :=
  Res.all_next (h.push (answers_emitAll (.inl rfl) _))

theorem State.Acted.respondValue (h : s.Acted i t) {op port pin : Byte} {v : Word16} :
    Res.All (respondValue op port pin v t) (s.Acted i) :=
  Res.all_next (h.push (answers_emitAll (.inl rfl) _))

theorem State.Acted.drawn (a : DrvAction) : s.Acted i ((drawAdc s).2.logDrv a) := by
  rw [drawAdc_frame]
  exact ⟨rfl, .inr ⟨a, rfl⟩, .inl rfl, fun _ => .inl⟩

theorem forward_acted {k : Channel} (hk : k = sendsTo i) (digit : Byte) (payload : List Byte) :
    Res.All (forward k digit payload s) (s.Acted i) :=
  Res.all_ite (fun _ => Res.all_next (.raiseFatal _)) fun _ => Res.all_next (State.Acted.refl.push fun m hm =>
    (List.mem_append.mp hm).elim (answers_emitAll (.inr hk) _ m) (answers_emitAll (.inl rfl) _ m))

/-- A defined `G3` command acts on the port its line names, or is fatal. -/
theorem withPort_acted {args : List Byte} {act : Byte → Byte → Pin → Nat → Res}
    (hact : ∀ port pin more j p, args = port :: pin :: more → portIndex s.cfg port = some p →
      Res.All (act port pin j p) (s.Acted i)) : Res.All (withPort args s act) (s.Acted i) := by
  unfold withPort
  split
  · exact Res.all_next (.raiseFatal _)
  · rename_i port pin j hargs
    split
    · exact Res.all_next (.raiseFatal _)
    · rename_i p hport
      unfold g3Operands at hargs
      split at hargs
      · split at hargs <;> cases hargs
        exact hact _ _ _ _ p rfl hport
      · cases hargs

/-- The first line of every command that answers. -/
theorem callInstr_acted (hcommand : i.lineText ≠ []) (hz : i ≠ .cmdZ) (s : State) :
    Res.All (callInstr i s) (s.Acted i) := by
  cases i with
  | cmdZ => exact absurd rfl hz
  | cmdFwd1 payload | cmdFwd2 payload | cmdFwd3 payload => exact forward_acted (by rfl) _ payload
  | cmdH | cmdL | cmdU | cmdD => exact withPort_acted fun _ _ _ _ _ _ _ => (State.Acted.logDrv _).respond
  | cmdI => exact withPort_acted fun _ _ _ _ _ _ _ => (State.Acted.logDrv _).respondValue
  | cmdA =>
    exact withPort_acted fun _ _ _ _ _ _ _ => Res.all_ite (fun _ => (State.Acted.drawn _).respondValue)
      fun _ => Res.all_next (.raiseFatal _)
  | cmdM =>
    refine withPort_acted fun port pin more j p hargs hport => State.Acted.respond ?_
    exact ⟨rfl, .inl rfl, .inr ⟨port, pin, more, p, _, .inl (hargs ▸ rfl), hport, rfl⟩, fun _ => .inl⟩
  | cmdN =>
    refine withPort_acted fun port pin more j p hargs hport => State.Acted.respond ?_
    exact ⟨rfl, .inl rfl, .inr ⟨port, pin, more, p, _, .inr (hargs ▸ rfl), hport, rfl⟩, fun _ => .inl⟩
  | cmdUnk op args =>
    show Res.All (startCmdUnk op args s) _
    unfold startCmdUnk
    split
    · exact Res.all_next (.raiseFatal _)
    · exact State.Acted.refl.respond
  | _ => exact absurd rfl hcommand

/-- An operation executed alone is its first line and a run from there. -/
theorem byMain_next_call (hrest : s.atRest) (h : byMain i s = .next t) :
    ∃ u n, callInstr i s = .next u ∧ runTurns n u = .next t := by
  obtain ⟨hstop, _⟩ | ⟨_, hturns⟩ := byMain_next h
  · exact absurd hrest.run hstop
  obtain ⟨n, hn⟩ : ∃ n, (s.setMain (s.main ++ [.call i])).budget = n + 1 :=
    ⟨(s.setMain (s.main ++ [.call i])).budget - 1, by unfold State.budget; omega⟩
  rw [hn, hrest.main, List.nil_append, runTurns_call hrest.run hrest.env, hrest.setMain_nil] at hturns
  obtain ⟨u, hu, ht⟩ := andThen_eq_next.mp hturns
  exact ⟨u, n, hu, ht⟩

end

/-! ### The obligation -/

/-- Settles O60: the first line acts and queues the answer, and the run from there is the answer's or the fatal report's. -/
theorem commandFrame : Obligations.CommandFrame := by
  intro s t i hrest hcommand hz h
  rw [exec_command hcommand] at h
  obtain ⟨u, n, hu, hrun⟩ := byMain_next_call hrest h
  obtain ⟨hothers, hlog, hmask, hmain⟩ := callInstr_acted hcommand hz s u hu
  have hanswers : ∀ m ∈ u.main, m.answers (sendsTo i) = true := fun m hm =>
    (hmain m hm).resolve_left (hrest.main ▸ List.not_mem_nil)
  have henv : u.env = [] := (congrArg (·.env) hothers).trans hrest.env
  obtain ⟨hchannels, hanswer⟩ := runTurns_answers henv hanswers hrun
  have htlog : t.drvLog = u.drvLog := congrArg (·.drvLog) hanswer
  have htmask : t.mask = u.mask := congrArg (·.mask) hanswer
  have hframe : t = { s with tx := t.tx, txIrqEn := t.txIrqEn, txReady := t.txReady, wireOut := t.wireOut, ie := t.ie,
                             main := t.main, ret := t.ret, run := t.run, wdtArmed := t.wdtArmed, mask := t.mask,
                             drvLog := t.drvLog, adcIn := t.adcIn, draws := t.draws } := by
    rw [hanswer, hothers]
  refine ⟨congrArg (·.rx) hframe, congrArg (·.lf) hframe, congrArg (·.last) hframe, congrArg (·.lastNotify) hframe,
    congrArg (·.lastPoll) hframe, congrArg (·.msClock) hframe, congrArg (·.schedPhase) hframe,
    congrArg (·.isrActive) hframe, congrArg (·.pinIn) hframe, congrArg (·.startPending) hframe, congrArg (·.cfg) hframe,
    htlog ▸ hlog, htmask ▸ hmask, fun c h0 h1 h2 h3 => ?_⟩
  have hto : c ≠ sendsTo i := by
    cases i with
    | cmdFwd1 payload => exact h1 payload rfl
    | cmdFwd2 payload => exact h2 payload rfl
    | cmdFwd3 payload => exact h3 payload rfl
    | _ => exact h0
  obtain ⟨hring, hirq, hwire⟩ := hchannels c h0 hto
  exact ⟨hring.trans (congrArg (·.ring (.tx c)) hothers), hirq.trans (congrArg (·.txIrqEn.get c) hothers),
    hwire.trans (congrArg (·.wireOut.get c) hothers)⟩

end Sys2Proof.Machine
end

section
/-!
What `MAIN` does in one of the Scheduler's steps does not depend on what it has left to do behind that step, but that
the reset command and a fatal error drop it (44_dispatcher R212, 60_exceptions R274); and no such access writes
`sched_phase`. So the loop's step is the Scheduler's step and then the phase advance (45_scheduler R254).
-/
namespace Sys2Proof.Machine

/-! ### One access, whatever is left behind it -/

/-- The positions a Scheduler step comes to, but for those of `SYS.FATAL`, which drop what is behind them. -/
def Micro.ofStep : Micro → Bool
  | .call (.rbPushd _ _) => false
  | .call (.chRxi _ _) => false
  | .call (.chTxi _) => false
  | .call .clkTick => false
  | .call .sysStart => false
  | .call (.sysFatal _) => false
  | .call (.envRxbyte _ _) => false
  | .call (.envTxrdy _) => false
  | .call .envReset => false
  | .advance _ => false
  | .fatalArm => false
  | .fatalHalt _ => false
  | _ => true

/-- `s` with `rest` left to do behind the rest. -/
def State.behind (s : State) (rest : List Micro) : State := s.setMain (s.main ++ rest)

/-- The phase, the requests and the schedule are as in `s`. -/
structure State.SameLoop (s t : State) : Prop where
  phase : t.schedPhase = s.schedPhase
  requests : t.requests = s.requests
  env : t.env = s.env

/-- `MAIN` is stopped, or is about to enter `SYS.FATAL`. -/
def State.stopping (s : State) : Prop := s.run ≠ .running ∨ ∃ kind, s.main = [.call (.sysFatal kind)]

/-- `r` is what an access in `s` answers and `r'` what it answers with `rest` left to do behind: the same with `rest`
behind, or, where the access stops `MAIN`, the same. -/
inductive State.Behind (s : State) (rest : List Micro) : Res → Res → Prop
  | next {t : State} {r' : Res} (h : r' = .next (t.behind rest) := by rfl) (run : t.run = s.run := by rfl)
      (same : s.SameLoop t := by exact ⟨rfl, rfl, rfl⟩)
      (main : t.main.all Micro.ofStep = s.main.all Micro.ofStep := by rfl) : s.Behind rest (.next t) r'
  | stops {t : State} {r' : Res} (stopping : t.stopping) (h : r' = .next t := by rfl)
      (same : s.SameLoop t := by exact ⟨rfl, rfl, rfl⟩) : s.Behind rest (.next t) r'
  | fault (e : Fault) : s.Behind rest (.fault e) (.fault e)
  | refused (e : Refusal) : s.Behind rest (.refused e) (.refused e)

section
variable {s t : State} {rest : List Micro} {a b a' b' : Res}

theorem State.setMain_of_main {ms : List Micro} (h : s.main = ms) : s.setMain ms = s := h ▸ s.setMain_main_self

theorem State.behind_of_done (h : s.main = []) : s.behind rest = s.setMain rest := by
  rw [State.behind, h, List.nil_append]

theorem State.SameLoop.refl (s : State) : s.SameLoop s := ⟨rfl, rfl, rfl⟩

theorem State.SameLoop.trans {u : State} (h : s.SameLoop t) (g : t.SameLoop u) : s.SameLoop u :=
  ⟨g.phase.trans h.phase, g.requests.trans h.requests, g.env.trans h.env⟩

theorem State.Behind.ite {p q : Prop} [Decidable p] [Decidable q] (ha : p → s.Behind rest a a')
    (hb : ¬p → s.Behind rest b b') (h : q ↔ p := by exact Iff.rfl) :
    s.Behind rest (if p then a else b) (if q then a' else b') := by
  by_cases hp : p
  · rw [if_pos hp, if_pos (h.mpr hp)]
    exact ha hp
  · rw [if_neg hp, if_neg (hp ∘ h.mp)]
    exact hb hp

theorem State.Behind.raises (kind : FatalKind) :
    s.Behind rest (.next (raiseFatal kind s)) (.next (raiseFatal kind (s.behind rest))) := .stops (.inr ⟨kind, rfl⟩)

theorem all_ofStep_emitAll (c : Channel) (bs : List Byte) : (emitAll c bs).all Micro.ofStep = true := by
  simp [emitAll, Micro.ofStep]

theorem all_ofStep_notifyChanged (letter v chg : Byte) : (notifyChanged letter v chg).all Micro.ofStep = true := by
  rw [notifyChanged, List.all_flatMap, List.all_eq_true]
  intro i _
  split
  · simp [notify, all_ofStep_emitAll, Micro.ofStep]
  · rfl

/-- `MAIN` goes on with `pre`. -/
theorem State.Behind.push {pre : List Micro} (hpre : pre.all Micro.ofStep = true) (main : t.main = s.main := by rfl)
    (run : t.run = s.run := by rfl) (same : s.SameLoop t := by exact ⟨rfl, rfl, rfl⟩) :
    s.Behind rest (.next (t.push pre)) (.next ((t.behind rest).push pre)) :=
  .next (congrArg (fun ms => Host.Outcome.next (t.setMain ms)) (List.append_assoc ..).symm) run ⟨same.1, same.2, same.3⟩
    (by rw [State.push_main, List.all_append, hpre, main, Bool.true_and])

theorem readLine_setMain (c : Channel) (s : State) (ms : List Micro) (i n : Nat) :
    readLine c (s.setMain ms) i n = readLine c s i n := by
  induction n generalizing i with
  | zero => rfl
  | succ n ih => simp only [readLine, ih, State.setMain_cfg, State.setMain_lf]

theorem lineOf_behind (c : Channel) (s : State) (rest : List Micro) : lineOf c (s.behind rest) = lineOf c s :=
  readLine_setMain c s _ 0 _

/-- No command line asks for a handler, an event, startup or a fatal error. -/
theorem ofStep_of_decodeLine {bytes : List Byte} {i : Instr} (h : decodeLine bytes = .ok i) :
    (Micro.call i).ofStep = true := by
  have htext := lineText_of_decodeLine h
  cases i with
  | rbPushd | chRxi | chTxi | clkTick | sysStart | sysFatal | envRxbyte | envTxrdy | envReset =>
    obtain rfl : bytes = [] := htext.symm
    cases h
  | _ => rfl

theorem withPort_behind {args : List Byte} {act act' : Byte → Byte → Pin → Nat → Res}
    (hact : ∀ port pin i p, s.Behind rest (act port pin i p) (act' port pin i p)) :
    s.Behind rest (withPort args s act) (withPort args (s.behind rest) act') := by
  have hcfg : (s.behind rest).cfg = s.cfg := rfl
  simp only [withPort, hcfg]
  cases g3Operands args with
  | error kind => exact .raises kind
  | ok operands =>
    obtain ⟨port, pin, i⟩ := operands
    dsimp only
    cases portIndex s.cfg port with
    | none => exact .raises _
    | some p => exact hact port pin i p

theorem respond_behind {op port pin : Byte} (main : t.main = s.main := by rfl) (run : t.run = s.run := by rfl)
    (same : s.SameLoop t := by exact ⟨rfl, rfl, rfl⟩) :
    s.Behind rest (respond op port pin t) (respond op port pin (t.behind rest)) :=
  .push (all_ofStep_emitAll _ _) main run same

theorem respondValue_behind {op port pin : Byte} {v : Word16} (main : t.main = s.main := by rfl)
    (run : t.run = s.run := by rfl) (same : s.SameLoop t := by exact ⟨rfl, rfl, rfl⟩) :
    s.Behind rest (respondValue op port pin v t) (respondValue op port pin v (t.behind rest)) :=
  .push (all_ofStep_emitAll _ _) main run same

theorem forward_behind (k : Channel) (digit : Byte) (payload : List Byte) :
    s.Behind rest (forward k digit payload s) (forward k digit payload (s.behind rest)) :=
  .ite (fun _ => .raises _) fun _ => .push (by rw [List.all_append, all_ofStep_emitAll, all_ofStep_emitAll]; rfl)

theorem startCdDispatch_behind : s.Behind rest (startCdDispatch s) (startCdDispatch (s.behind rest)) := by
  have hlf : (s.behind rest).lf = s.lf := rfl
  simp only [startCdDispatch, lineOf_behind, hlf]
  refine .ite (fun _ => ?_) fun _ => .refused _
  cases lineOf .ch0 s with
  | error f => exact .fault f
  | ok bytes =>
    dsimp only
    cases hi : decodeLine bytes with
    | error e => exact .refused _
    | ok i => exact .push (pre := [.call i]) (by simp [ofStep_of_decodeLine hi])

theorem storeContent_behind (c : Channel) (b : Byte) :
    s.Behind rest (storeContent c b s) (storeContent c b (s.behind rest)) := by
  have hlf : (s.behind rest).lf = s.lf := rfl
  have hcfg : (s.behind rest).cfg = s.cfg := rfl
  simp only [storeContent, hlf, hcfg]
  cases memWrite (.line c) s.cfg.lineCap (s.lf.get c).line (s.lf.get c).len b with
  | error f => exact .fault f
  | ok m => exact .ite (fun _ => .stops (.inr ⟨_, rfl⟩)) fun _ => .push rfl

theorem drawAdc_behind : drawAdc (s.behind rest) = ((drawAdc s).1, (drawAdc s).2.behind rest) := by
  have hbehind : (s.behind rest).adcIn = s.adcIn := rfl
  cases hadc : s.adcIn <;> simp only [drawAdc, hbehind, hadc] <;> rfl

/-- The first line of an instruction. -/
theorem callInstr_behind {i : Instr} (hi : (Micro.call i).ofStep = true) :
    s.Behind rest (callInstr i s) (callInstr i (s.behind rest)) := by
  cases i with
  | rbPush | rbPop | rbEmpty | rbFull | chDrain | lfReset | pmPoll | schA | schB | sysCritEnter | sysCritExit =>
    exact .next
  | chTx | lfAppend | schC => exact .ite (fun _ => .next) fun _ => .next
  | pmWatch | pmUnwatch => exact .ite (fun _ => .next) fun _ => .refused _
  | cdDispatch => exact startCdDispatch_behind
  | cmdZ => exact .stops (.inl nofun)
  | cmdFwd1 | cmdFwd2 | cmdFwd3 => exact forward_behind _ _ _
  | cmdH | cmdL | cmdU | cmdD => exact withPort_behind fun _ _ _ _ => respond_behind
  | cmdI => exact withPort_behind fun _ _ _ _ => respondValue_behind
  | cmdA =>
    refine withPort_behind fun port pin i p => ?_
    rw [drawAdc_behind]
    have hframe := drawAdc_frame s
    exact .ite (fun _ => respondValue_behind (congrArg (·.main) hframe) (congrArg (·.run) hframe)
      ⟨congrArg (·.schedPhase) hframe, congrArg (·.requests) hframe, congrArg (·.env) hframe⟩) fun _ => .raises _
  | cmdM | cmdN => exact withPort_behind fun _ _ _ _ => respond_behind
  | cmdUnk op args =>
    show s.Behind rest (startCmdUnk op args s) (startCmdUnk op args (s.behind rest))
    unfold startCmdUnk
    cases g3Operands args with
    | error kind => exact .raises kind
    | ok operands => exact respond_behind
  | _ => cases hi

theorem atAppendByte_behind (c : Channel) :
    s.Behind rest (atAppendByte c s) (atAppendByte c (s.behind rest)) := by
  have hret : (s.behind rest).ret = s.ret := rfl
  simp only [atAppendByte, hret]
  split
  · refine .ite (fun _ => .ite (fun _ => .next) fun _ => .next) fun _ => ?_
    exact .ite (fun _ => .next) fun _ => storeContent_behind c _
  · exact .next

theorem atPushStore_behind (q : Queue) (b : Byte) (w : Nat) :
    s.Behind rest (atPushStore q b w s) (atPushStore q b w (s.behind rest)) := by
  have hring : (s.behind rest).ring q = s.ring q := rfl
  have hcap : (s.behind rest).capacity q = s.capacity q := rfl
  simp only [atPushStore, writeSlot, hring, hcap]
  cases memWrite (.ring q) (s.capacity q) (s.ring q).store w b with
  | error f => exact .fault f
  | ok m => exact .next

theorem atDrainSend_behind (c : Channel) : s.Behind rest (atDrainSend c s) (atDrainSend c (s.behind rest)) := by
  have hret : (s.behind rest).ret = s.ret := rfl
  simp only [atDrainSend, hret]
  split
  · rename_i x _
    by_cases hready : s.txReady.get c = true
    · rw [wire_eq x hready, wire_eq (s := s.behind rest) x hready]
      exact .next
    · have hbusy (t : State) (ht : t.txReady = s.txReady) : wire c x t = .refused (.transmitterBusy c) :=
        if_neg (by rwa [ht])
      rw [hbusy s rfl, hbusy (s.behind rest) rfl]
      exact .refused _
  · exact .next

/-- One access. -/
theorem access_behind {m : Micro} (hm : m.ofStep = true) : s.Behind rest (access m s) (access m (s.behind rest)) := by
  cases m with
  | call i => exact callInstr_behind hm
  | emptyWr | fullRd | pushWr | popRd | txWait | drainLoop | txEnable | notifyStamp | lastStore => exact .next
  | pushRd | popWr | txWaited | txMakeRoom | drainTest | drainWait | schADispatch =>
    exact .ite (fun _ => .next) fun _ => .next
  | pushStore q b w => exact atPushStore_behind q b w
  | popStore q r =>
    show s.Behind rest (atPopStore q r s) (atPopStore q r (s.behind rest))
    have hread : readSlot q r (s.behind rest) = readSlot q r s := rfl
    simp only [atPopStore, hread]
    cases readSlot q r s with
    | error f => exact .fault f
    | ok b => exact .next
  | drainSend c => exact atDrainSend_behind c
  | appendByte c => exact atAppendByte_behind c
  | pollPort p => exact .ite (fun _ => .push (by simp [all_ofStep_notifyChanged, Micro.ofStep])) fun _ => .next
  | schBForward k =>
    have hlf : (s.behind rest).lf = s.lf := rfl
    simp only [access, atSchBForward, lineOf_behind, hlf]
    refine .ite (fun _ => ?_) fun _ => .next
    cases lineOf k s with
    | error f => exact .fault f
    | ok bytes => exact .push (by simp [all_ofStep_emitAll, Micro.ofStep])
  | _ => cases hm

end

/-! ### A run, whatever is left behind it -/

/-- How a run of `n` turns from `s` to `t` goes with `rest` left to do behind: it comes to the same with `rest` behind,
or it drops `rest` and stops `MAIN`. -/
inductive State.RunsBehind (rest : List Micro) (n : Nat) (s t : State) : Prop
  | goes (run : t.run = .running) (main : t.main.all Micro.ofStep = true)
      (h : (s.behind rest).Reaches n (t.behind rest))
  | stops (stopped : t.run ≠ .running ∨ t.main ≠ [])
      (h : t.settled = true → ∀ N, n ≤ N → runTurns N (s.behind rest) = .next t)

section
variable {s t u : State} {rest : List Micro} {m : Micro} {ms : List Micro} {n : Nat}

theorem settled_of_stopped (h : t.run ≠ .running) : t.settled = true := by simp [State.settled, State.idle, h]

/-- A stopping `MAIN` enters the fatal error it is about to enter, or stays; it comes to no other operation. -/
theorem State.stopping.run_next (hs : s.stopping) (henv : s.env = []) (h : runTurns n s = .next t) :
    s.SameLoop t ∧ (t.run ≠ .running ∨ t.main ≠ []) := by
  by_cases hrun : s.run = .running
  · obtain ⟨kind, hmain⟩ := hs.resolve_left (not_not_intro hrun)
    cases n with
    | zero =>
      obtain rfl := Host.Outcome.next.inj h
      exact ⟨.refl s, .inr (hmain ▸ List.cons_ne_nil _ _)⟩
    | succ n =>
      rw [← State.setMain_main_self s, hmain, runTurns_call hrun henv] at h
      have hentered : (enterFatal kind (s.setMain [])).fatalUnderway kind := enterFatal_underway hrun
      have hframe := (runTurns_fatalUnderway_frame hentered henv h).rest
      refine ⟨⟨congrArg (·.schedPhase) hframe, congrArg (·.requests) hframe, congrArg (·.env) hframe⟩, ?_⟩
      obtain hhalted | ⟨_, hahead⟩ := (runTurns_fatalUnderway hentered henv h).1.inFatal.goes
      · exact .inl (hhalted ▸ nofun)
      · exact .inr (List.ne_nil_of_mem hahead)
  · rw [runTurns_settled (settled_of_stopped hrun)] at h
    obtain rfl := Host.Outcome.next.inj h
    exact ⟨.refl s, .inl hrun⟩

/-- A wait is one whatever is left behind it. -/
theorem waiting_cons (s : State) (m : Micro) (ms ms' : List Micro) :
    (s.setMain (m :: ms)).waiting = (s.setMain (m :: ms')).waiting := by
  cases m <;> rfl

/-- What any `n` turns or more from `u` answer, enough turns from a state that comes to `u` answer. -/
theorem State.Reaches.runTurns {b N : Nat} {r : Res} (h : s.Reaches b u) (hu : ∀ j, n ≤ j → Machine.runTurns j u = r)
    (hN : n + b ≤ N) : Machine.runTurns N s = r := by
  obtain ⟨k, hk, hst⟩ := h
  obtain ⟨j, rfl⟩ := Nat.exists_eq_add_of_le' ((Nat.le_add_left k n).trans ((Nat.add_le_add_left hk n).trans hN))
  rw [hst, hu j (by omega)]

/-- A turn before the run. -/
theorem State.RunsBehind.step (h : u.RunsBehind rest n t) (hturn : (s.behind rest).Reaches 1 (u.behind rest)) :
    s.RunsBehind rest (n + 1) t := by
  cases h with
  | goes run main h => exact .goes run main ((hturn.trans h).mono (by omega))
  | stops stopped h => exact .stops stopped fun hset N hN => hturn.runTurns (h hset) hN

/-- What is left behind waits for the run, or is dropped by it. -/
theorem runTurns_behind (rest : List Micro) (hrun : s.run = .running) (henv : s.env = [])
    (hms : s.main.all Micro.ofStep = true) (h : runTurns n s = .next t) :
    s.SameLoop t ∧ s.RunsBehind rest n t := by
  induction n generalizing s with
  | zero =>
    obtain rfl := Host.Outcome.next.inj h
    exact ⟨.refl s, .goes hrun hms (.refl _)⟩
  | succ n ih =>
    by_cases hset : s.settled = true
    · rw [runTurns_settled hset] at h
      obtain rfl := Host.Outcome.next.inj h
      exact ⟨.refl s, .goes hrun hms ((State.Reaches.refl _).mono (Nat.zero_le _))⟩
    cases hmain : s.main with
    | nil => exact absurd (settled_of_done hmain) hset
    | cons m ms =>
      obtain ⟨s, rfl⟩ : ∃ s' : State, s = s'.setMain (m :: ms) := ⟨s, (State.setMain_of_main hmain).symm⟩
      have hw : (s.setMain (m :: ms)).waiting = false := by simp_all [State.settled]
      obtain ⟨hm, hms⟩ : m.ofStep = true ∧ ms.all Micro.ofStep = true := by simpa using hms
      rw [runTurns_access (s := s) hrun henv m ms hw] at h
      obtain ⟨u, hu, ht⟩ := andThen_eq_next.mp h
      have hbehind : (s.setMain ms).Behind rest (access m (s.setMain ms)) (access m (s.setMain (ms ++ rest))) :=
        access_behind hm
      rw [hu] at hbehind
      have hturn {v : State} (hv : access m (s.setMain (ms ++ rest)) = .next v) :
          ((s.setMain (m :: ms)).behind rest).Reaches 1 v :=
        .of_access (s := s) hrun henv hv ((waiting_cons s m _ _).trans hw)
      cases hbehind with
      | next hnext run same main =>
        obtain ⟨hloop, hruns⟩ := ih (run.trans hrun) (same.env.trans henv) (main.trans hms) ht
        exact ⟨.trans ⟨same.phase, same.requests, same.env⟩ hloop, hruns.step (hturn hnext)⟩
      | stops stopping hnext same =>
        obtain ⟨hloop, hstopped⟩ := stopping.run_next (same.env.trans henv) ht
        exact ⟨.trans ⟨same.phase, same.requests, same.env⟩ hloop, .stops hstopped fun hset N hN =>
          (hturn hnext).runTurns (fun j hj => runTurns_of_settled hj ht hset) hN⟩

/-! ### The obligation -/

/-- A step has more turns than the size of the configuration asks for (log 7). -/
theorem le_budget (s : State) (ms : List Micro) : 1000 * (configSize s.cfg + 1) ≤ (s.setMain ms).budget :=
  Nat.mul_le_mul_left _ (by simp only [State.setMain_cfg]; omega)

theorem State.atRest.byMain_eq (hrest : s.atRest) (i : Instr) : byMain i s = runMain (s.setMain [.call i]) := by
  rw [byMain, if_pos hrest.run, hrest.main, List.nil_append]

theorem exec_phaseInstr (ph : Phase) (s : State) : exec (phaseInstr ph) s = byMain (phaseInstr ph) s := by
  cases ph <;> rfl

theorem ofStep_phaseInstr (ph : Phase) : (Micro.call (phaseInstr ph)).ofStep = true := by
  cases ph <;> rfl

/-- One step of the loop, beside the Scheduler's step executed alone. -/
theorem step_of_phaseInstr (hrest : s.atRest) (hreq : s.requests = []) (hstart : s.startPending = false)
    (h : exec (phaseInstr s.schedPhase) s = .next t) :
    (t.run = .running → t.main = [] → step s = .next { t with schedPhase := nextPhase s.schedPhase }) ∧
      (t.run ≠ .running → step s = .next t ∧ t.schedPhase = s.schedPhase ∧ step t = .next t) := by
  have hof := ofStep_phaseInstr s.schedPhase
  have hstep : step s =
      runMain (s.setMain [.call (phaseInstr s.schedPhase), .advance (nextPhase s.schedPhase)]) := by
    simp [step, hreq, hrest.run, mainLoop, hrest.main, hstart]
  rw [exec_phaseInstr, hrest.byMain_eq] at h
  generalize phaseInstr s.schedPhase = i at h hof hstep
  generalize nextPhase s.schedPhase = ph at hstep ⊢
  have hbudget : (s.setMain [.call i]).budget + 1 ≤ (s.setMain [.call i, .advance ph]).budget := by
    simp [State.budget]
  obtain ⟨hloop, hruns⟩ :=
    runTurns_behind [.advance ph] (s := s.setMain [.call i]) hrest.run hrest.env (by simp [hof]) h
  rw [hstep, runMain]
  cases hruns with
  | goes run _ hreach =>
    refine ⟨fun _ hdone => ?_, fun hstop => absurd run hstop⟩
    have hadvance : access (.advance ph) (t.setMain []) = .next { t with schedPhase := ph } := by
      rw [State.setMain_of_main hdone]
      rfl
    have hsettled : State.settled { t with schedPhase := ph } = true := settled_of_done hdone
    rw [State.behind_of_done hdone] at hreach
    exact (hreach.trans (.of_access run (hloop.env.trans hrest.env) hadvance)).runTurns (n := 0)
      (fun j _ => runTurns_settled hsettled j) (by omega)
  | stops hstopped hdropped =>
    refine ⟨fun hrunning hdone => ?_, fun hstop => ⟨?_, hloop.phase, ?_⟩⟩
    · exact absurd hdone (hstopped.resolve_left (not_not_intro hrunning))
    · exact hdropped (settled_of_stopped hstop) _ (by omega)
    · rw [step_stopped hstop (hloop.requests.trans hreq), envStep, hloop.env.trans hrest.env]

/-- Settles O40: the phase advance is what the loop leaves to do behind the Scheduler's step. -/
theorem phaseAdvancesAfterItsStep : Obligations.PhaseAdvancesAfterItsStep :=
  fun _ _ _ hrest hreq hstart h => step_of_phaseInstr hrest hreq hstart h

end

end Sys2Proof.Machine
end

section
/-!
The fatal report comes to its end or to a wait within a bounded number of accesses (60_exceptions R274, 41_channel R154,
R155): `MAIN` alone follows a `MaskedPath` until the transmitter is not ready.
-/
namespace Sys2Proof.Machine

section
variable {c : Channel} {Q : State → Prop} {s t : State} {ms rest : List Micro} {k : Nat} {bs w : List Byte}

/-- `MAIN` alone comes to the end of a path, or to a wait on it. -/
theorem MaskedPath.settles (h : MaskedPath c Q ms s k) {r : Four Bool} (ps : List Byte)
    (hr : s.txReady.get c = true → r.get c = true) :
    ∃ t, t.settled = true ∧ ((s.amid [] r ps).setMain ms).Reaches k t := by
  have hwait {u : State} {j : Nat} (henv : u.env = []) (hw : u.waiting = true) :
      ∃ t, t.settled = true ∧ u.Reaches j t :=
    ⟨u, by simp [State.settled, henv, hw], (State.Reaches.refl u).mono (Nat.zero_le j)⟩
  have hon {u v : State} {m : Micro} {ms : List Micro} {j : Nat} (hrun : u.run = .running) (henv : u.env = [])
      (hacc : access m (u.setMain ms) = .next v) (hv : ∃ t, t.settled = true ∧ v.Reaches j t) :
      ∃ t, t.settled = true ∧ (u.setMain (m :: ms)).Reaches (j + 1) t := by
    by_cases hw : (u.setMain (m :: ms)).waiting = true
    · exact hwait henv hw
    · obtain ⟨t, ht, hreach⟩ := hv
      exact ⟨t, ht, ((State.Reaches.of_access hrun henv hacc (by simpa using hw)).trans hreach).mono (by omega)⟩
  induction h generalizing r with
  | done => exact ⟨_, settled_of_done rfl, .refl _⟩
  | step hrun _ _ h hready ih => exact hon hrun rfl (h [] r ps) (ih (hready ▸ hr))
  | wait hrun _ _ ih =>
    cases hready : r.get c with
    | true => exact hon hrun rfl (if_pos hready) (ih fun _ => hready)
    | false => exact hwait rfl (by simp [State.waiting, State.amid, hready])
  | send hrun _ hret hready _ ih =>
    refine hon hrun rfl (access_drainSend hret (hr hready)) (ih (r := r.set c false) fun h => ?_)
    exact absurd ((Four.get_set_same _ c false).symm.trans h) (by decide)

theorem State.Masked.not_full (hs : s.Masked c) (he : s.holds (.tx c) []) : s.isFull (.tx c) = false := by
  refine hs.wf.not_full (n := 0) ?_
  rw [State.room, ← he.length_eq]
  exact hs.wf.capacity_ge (.tx c)

theorem State.holds.length_lt_configSize {q : Queue} (hw : s.holds q w) (hs : s.wf) : w.length < configSize s.cfg :=
  (hw.length_eq ▸ hs.count_lt q).trans_le (capacity_le_configSize s.cfg q)

/-- `CH.TX` with `I = 0`, on a path: the buffer is left empty (R154 u1 to u3). -/
theorem MaskedPath.emit (hs : s.Masked c) (hbs : s.holds (.tx c) bs) (b : Byte)
    (next : ∀ t : State, t.Masked c → t.holds (.tx c) [] → MaskedPath c Q rest t k) :
    MaskedPath c Q (emit c b :: rest) s (k + 10 * bs.length + if s.isFull (.tx c) then 30 else 24) := by
  have hfound : (s.withRet (.bool (s.isFull (.tx c)))).Masked c := hs.keeps (.same .refl)
  have hnext {u : State} {bs : List Byte} (hu : u.Masked c) (hbs : u.holds (.tx c) bs) (hf : u.isFull (.tx c) = false)
      (v : Bool) : MaskedPath c Q rest ((u.afterPush (.tx c) b).drained c (bs ++ [b]) v) k := by
    have hpushed : (u.afterPush (.tx c) b).Masked c :=
      ⟨hu.run, hu.env, hu.ie, hu.wf.keeps (afterPush_keeps hu.wf hf b), _, afterPush_holds hu.wf hbs hf b⟩
    exact next _ (drained_masked hpushed _ v) (drained_holds _ v)
  have htest {j : Nat} (h : MaskedPath c Q (.txMakeRoom c b :: rest) (s.withRet (.bool (s.isFull (.tx c)))) j) :
      MaskedPath c Q (Machine.emit c b :: rest) s (j + 2 + 1) :=
    .step (ms := .call (.rbFull (.tx c)) :: .txMakeRoom c b :: rest) (s' := s) hs.run hs.ie (.rbFull hs.run hs.ie h)
      fun _ _ _ => if_neg (by simp [State.amid, hs.ie])
  cases hf : s.isFull (.tx c) with
  | false =>
    rw [hf] at hfound htest
    have hpath := htest (.step hs.run hs.ie (.pushDrain hfound hbs hf (hnext hfound hbs hf)) fun _ _ _ => rfl)
    convert hpath using 1
    simp
    omega
  | true =>
    rw [hf] at hfound htest
    have hempty (v : Bool) := drained_masked hfound bs v
    have hroom (v : Bool) : ((s.withRet (.bool true)).drained c bs v).isFull (.tx c) = false :=
      (hempty v).not_full (drained_holds bs v)
    have hpath := htest (.step (s' := s.withRet (.bool true)) hs.run hs.ie (.chDrain hfound hbs fun v =>
      .pushDrain (hempty v) (drained_holds bs v) (hroom v) (hnext (hempty v) (drained_holds bs v) (hroom v)))
      fun _ _ _ => rfl)
    convert hpath using 1
    simp
    omega

/-- Bytes after the first find the buffer empty. -/
theorem MaskedPath.emitAll (hs : s.Masked c) (he : s.holds (.tx c) [])
    (next : ∀ t : State, t.Masked c → t.holds (.tx c) [] → MaskedPath c Q rest t k) :
    MaskedPath c Q (emitAll c bs ++ rest) s (k + 24 * bs.length) := by
  induction bs generalizing s with
  | nil => exact next s hs he
  | cons b bs ih =>
    have hpath := MaskedPath.emit hs he b fun t ht => ih ht
    rwa [hs.not_full he] at hpath

/-- h3 and h4 (60_exceptions R274). -/
theorem MaskedPath.halt (hs : s.Masked c) (kind : FatalKind) :
    MaskedPath c (fun _ => True) [.fatalArm, .fatalHalt kind] s 2 := by
  have hhalt {u : State} (hu : u.Masked c) : MaskedPath c (fun _ => True) [.fatalHalt kind] u 1 :=
    .step (ms := []) (s' := { u with run := .halted kind }) hu.run hu.ie (.done trivial) fun _ _ _ => rfl
  cases hact : s.cfg.fatalAction with
  | watchdog =>
    refine .step (s' := s.wdtArm) hs.run hs.ie (hhalt (hs.keeps (.same .refl))) fun es r ps => ?_
    show atFatalArm ((s.amid es r ps).setMain [.fatalHalt kind]) = _
    have hact' : ((s.amid es r ps).setMain [.fatalHalt kind]).cfg.fatalAction = .watchdog := hact
    simp only [atFatalArm, hact']
    rfl
  | spin =>
    refine .step (s' := s) hs.run hs.ie (hhalt hs) fun es r ps => ?_
    show atFatalArm ((s.amid es r ps).setMain [.fatalHalt kind]) = _
    have hact' : ((s.amid es r ps).setMain [.fatalHalt kind]).cfg.fatalAction = .spin := hact
    simp only [atFatalArm, hact']

theorem diagnostic_length_le (cfg : Config) (kind : FatalKind) :
    (diagnostic cfg kind).length ≤ configSize cfg + 13 := by
  have hmsg : (cfg.fatalMsg.get kind).length ≤ configSize cfg := by
    cases kind <;> simp only [configSize, PerKind.get] <;> omega
  simp [diagnostic, errorText, hex16]
  omega

/-- A fatal error raised while `MAIN` runs alone: the report comes to the halt or to a wait. -/
theorem raiseFatal_settles (hs : s.wf) (hrun : s.run = .running) (henv : s.env = []) (hw : s.holds (.tx .ch0) w)
    (kind : FatalKind) :
    ∃ t, t.settled = true ∧ t.inFatal kind ∧ (raiseFatal kind s).Reaches (34 * configSize s.cfg + 345) t := by
  have hmasked : State.Masked .ch0 { s with ie := false } := ⟨hrun, henv, rfl, hs.keeps (.same .refl), w, hw⟩
  obtain ⟨b, bs, hdiag⟩ : ∃ b bs, diagnostic s.cfg kind = b :: bs := ⟨_, _, rfl⟩
  have hpath := MaskedPath.emit (rest := emitAll .ch0 bs ++ [.fatalArm, .fatalHalt kind]) hmasked hw b
    fun t ht he => MaskedPath.emitAll ht he fun u hu _ => .halt hu kind
  obtain ⟨t, ht, hreach⟩ := hpath.settles (r := s.txReady) s.pinIn id
  have hstart : (State.amid { s with ie := false } [] s.txReady s.pinIn).setMain
      (emit .ch0 b :: (emitAll .ch0 bs ++ [.fatalArm, .fatalHalt kind])) = enterFatal kind s := by
    rw [enterFatal, hdiag, ← henv]
    rfl
  rw [hstart] at hreach
  have henter : access (.call (.sysFatal kind)) (s.setMain []) = .next (enterFatal kind s) := rfl
  have hqueued := hw.length_lt_configSize hs
  have hlen := diagnostic_length_le s.cfg kind
  rw [hdiag, List.length_cons] at hlen
  have hreport : (raiseFatal kind s).Reaches (34 * configSize s.cfg + 345) t :=
    ((State.Reaches.of_access hrun henv henter).trans hreach).mono (by split <;> omega)
  obtain ⟨v, hv, hfatal, _⟩ := runTurns_raiseFatal hs hrun henv hw kind (34 * configSize s.cfg + 345)
  obtain rfl := Host.Outcome.next.inj
    (hv.symm.trans (hreport.runTurns (n := 0) (fun j _ => runTurns_settled ht j) (by omega)))
  exact ⟨v, ht, hfatal, hreport⟩

end

end Sys2Proof.Machine
end

section
/-!
The Scheduler's steps (45_scheduler R251 to R253) from a state at rest: the drain into the framer, then the line that is
dispatched or forwarded and the framer's reset, or the poll that is due.
-/
namespace Sys2Proof.Machine

/-! ### After a line -/

/-- What `SCH.A` and `SCH.B` leave once the line of channel `c` is served by the output `bs`: the framer is reset (R251,
R252). -/
def afterLine (c : Channel) (bs : List Byte) (s : State) : State :=
  (afterEmitAll .ch0 bs s).setLf c { (s.lf.get c) with len := 0, ready := false }

section
variable {c d : Channel} {s t w : State} {bs part u : List Byte} {n : Nat}

@[simp] theorem afterEmitAll_lf (c : Channel) (bs : List Byte) (s : State) : (afterEmitAll c bs s).lf = s.lf :=
  congrArg (·.lf) (afterEmitAll_frame c bs s)

theorem afterLine_main (c : Channel) (bs : List Byte) (s : State) : (afterLine c bs s).main = s.main :=
  afterEmitAll_main .ch0 bs s

theorem afterLine_lf (c : Channel) (bs : List Byte) (s : State) :
    (afterLine c bs s).lf.get c = { (s.lf.get c) with len := 0, ready := false } := Four.get_set_same _ _ _

/-- The output and the framer's reset, in `MAIN`'s accesses. -/
theorem State.HasRoom.reaches_afterLine (h : s.HasRoom .ch0 bs.length) (c : Channel) (rest : List Micro) :
    (s.setMain (emitAll .ch0 bs ++ .call (.lfReset c) :: rest)).Reaches (10 * bs.length + 1)
      ((afterLine c bs s).setMain rest) := by
  have hdone : (afterEmitAll .ch0 bs s).HasRoom .ch0 0 := State.HasRoom.emittedAll (n := 0) h
  have hreset : access (.call (.lfReset c)) ((afterEmitAll .ch0 bs s).setMain rest) =
      .next ((afterLine c bs s).setMain rest) := by
    rw [afterLine, ← afterEmitAll_lf .ch0 bs s]
    rfl
  exact (h.reaches_emitAll _).trans (.of_access hdone.run hdone.env hreset)

/-- The framer's writes leave the room there is. -/
theorem State.Appended.hasRoom (ht : s.Appended c part u t) (h : s.HasRoom d n) : t.HasRoom d n := by
  obtain ⟨⟨rd, l, r, rfl⟩, hwf, _⟩ := ht
  exact ⟨h.run, h.env, h.ie, hwf, h.room⟩

theorem State.FramerFrame.drvLog (h : s.FramerFrame c t) : t.drvLog = s.drvLog := by
  obtain ⟨rd, l, r, rfl⟩ := h
  rfl

/-- What a line served after an append has changed, the actions taken for it aside (R251, R252, "Writes"). -/
theorem State.FramerFrame.afterLine (h : s.FramerFrame c t) (hbs : bs ≠ []) {log : List DrvAction}
    (hw : w = afterLine c bs { t with drvLog := log }) :
    w = { s with rx := s.rx.set c { s.rx.get c with rd := (w.rx.get c).rd }, tx := s.tx.set .ch0 w.tx.c0
                 txIrqEn := s.txIrqEn.set .ch0 true, lf := s.lf.set c (w.lf.get c), drvLog := log, ret := w.ret } := by
  obtain ⟨b, bs, rfl⟩ := List.exists_cons_of_ne_nil hbs
  obtain ⟨rd, l, r, rfl⟩ := h
  have hframe := afterEmitAll_frame .ch0 (b :: bs) { ((s.setRd (.rx c) rd).setLf c l).withRet r with drvLog := log }
  rw [afterEmitAll_txIrqEn] at hframe
  have hrx : w.rx = s.rx.set c { s.rx.get c with rd := rd } := by
    rw [hw]
    exact congrArg (·.rx) hframe
  have hlf : w.lf.get c = { l with len := 0, ready := false } := by
    rw [hw, afterLine_lf]
    exact congrArg (fun l => { l with len := 0, ready := false }) (Four.get_set_same s.lf c l)
  rw [hrx, hlf, Four.get_set_same, hw, Machine.afterLine, hframe]
  simp only [State.setLf, State.withRet, Four.set_set, Four.get_set_same]
  rfl

end

/-! ### The line that an append completes -/

section
variable {c k : Channel} {s t : State} {part u line : List Byte}

/-- The append that completes a line (42_line_framer R172, R176). -/
theorem State.Framing.reaches_ready (h : s.Framing c part u) (hshort : (framedLine part u).length < s.cfg.lineCap)
    (hbehind : behindLine part u ≠ []) (rest : List Micro) :
    ∃ t, s.Appended c part u t ∧ (t.lf.get c).ready = true ∧ lineOf c t = .ok (framedLine part u) ∧
      (s.setMain (.call (.lfAppend c) :: rest)).Reaches (6 * u.length + 4) (t.setMain rest) := by
  obtain ⟨t, ht, hreach⟩ := runTurns_lfAppend h ((length_le_framedLine part u).trans_lt hshort) rest
  have hline := ht.line
  rw [List.take_of_length_le hshort.le] at hline
  rw [afterAppend, if_pos hshort] at hreach
  exact ⟨t, ht, (ht.short hshort).1.mpr hbehind, hline, hreach⟩

/-- `SCH.B` with a ready line: it is forwarded, and the framer reset (R252). -/
theorem State.HasRoom.reaches_forward (h : t.HasRoom .ch0 (line.length + 3)) (hready : (t.lf.get k).ready = true)
    (hline : lineOf k t = .ok line) :
    (t.setMain [.schBForward k]).Reaches (10 * (line.length + 3) + 2)
      ((afterLine k (auxForward k line) t).setMain []) := by
  have hlen : (auxForward k line).length = line.length + 3 := by simp [auxForward]
  have hline' : lineOf k (t.setMain []) = .ok line := lineOf_ok_congr hline
  have hforward : access (.schBForward k) (t.setMain []) =
      .next (t.setMain (emitAll .ch0 (auxForward k line) ++ [.call (.lfReset k)])) := by
    simp only [access, atSchBForward, State.setMain_lf, hready, if_true, hline']
    exact congrArg (fun ms => Host.Outcome.next (t.setMain ms)) (List.append_nil _)
  rw [← hlen] at h ⊢
  exact ((State.Reaches.of_access h.run h.env hforward).trans (h.reaches_afterLine k [])).mono (by omega)

/-- `SCH.A` with the line of a valid `H` command ready: `CD.DISPATCH` calls it, it acts and answers, and the framer is
reset (R251, 44_dispatcher R211, R215). -/
theorem State.HasRoom.reaches_cmdH {port pin : Byte} {p : Nat} {i : Pin} (h : t.HasRoom .ch0 6)
    (hready : (t.lf.get .ch0).ready = true) (hline : lineOf .ch0 t = .ok [0x48#8, port, pin])
    (hport : portIndex t.cfg port = some p) (hpin : pinIndex pin = some i) :
    (t.setMain [.schADispatch]).Reaches 64
      ((afterLine .ch0 (g3Response 0x48#8 port pin) (t.logDrv (.outputHigh p i))).setMain []) := by
  have hcalled : access .schADispatch (t.setMain []) = .next (t.setMain [.call .cdDispatch, .call (.lfReset .ch0)]) :=
    if_pos hready
  have hline' : lineOf .ch0 (t.setMain [.call (.lfReset .ch0)]) = .ok [0x48#8, port, pin] := lineOf_ok_congr hline
  have hdispatch : access (.call .cdDispatch) (t.setMain [.call (.lfReset .ch0)]) =
      .next (t.setMain [.call (.cmdH [port, pin]), .call (.lfReset .ch0)]) := by
    simp only [access, callInstr, startCdDispatch, State.setMain_lf, hready, if_true, hline']
    rfl
  have hcommand : access (.call (.cmdH [port, pin])) (t.setMain [.call (.lfReset .ch0)]) =
      .next ((t.logDrv (.outputHigh p i)).setMain
        (emitAll .ch0 (g3Response 0x48#8 port pin) ++ [.call (.lfReset .ch0)])) :=
    withPort_ok (s := t.setMain [.call (.lfReset .ch0)]) hpin hport
  have hacted : (t.logDrv (.outputHigh p i)).HasRoom .ch0 (g3Response 0x48#8 port pin).length := h.acted (.same .refl)
  exact (State.Reaches.of_access h.run h.env hcalled).trans ((State.Reaches.of_access h.run h.env hdispatch).trans
    ((State.Reaches.of_access h.run h.env hcommand).trans (hacted.reaches_afterLine .ch0 [])))

end

/-! ### What a served line leaves -/

/-- `w` is `s` after the framer of channel `c` has made the line `made` of its queue, with `more` behind it, and the
line has been served: `out` queued on the control channel, the driver log then being `log`, and the framer reset (R251,
R252). -/
structure State.Served (c : Channel) (made more out : List Byte) (log : List DrvAction) (s w : State) : Prop where
  sent : ∀ {bs}, s.holds (.tx .ch0) bs → w.holds (.tx .ch0) (bs ++ out)
  queued : w.holds (.rx c) more
  len : (w.lf.get c).len = 0
  ready : (w.lf.get c).ready = false
  frame : w = { s with rx := s.rx.set c { s.rx.get c with rd := (w.rx.get c).rd }, tx := s.tx.set .ch0 w.tx.c0
                       txIrqEn := s.txIrqEn.set .ch0 true, lf := s.lf.set c (w.lf.get c), drvLog := log, ret := w.ret }
  rd : w.tx.c0.rd = s.tx.c0.rd
  store : w.sameTxBut .ch0 out.length s
  stored : ∀ j < made.length, Memory.read (w.lf.get c).line j = made[j]?
  kept : ∀ j, made.length ≤ j → Memory.read (w.lf.get c).line j = Memory.read (s.lf.get c).line j

section
variable {c : Channel} {s t v : State} {part u out : List Byte}

theorem State.sameTxBut.congr {n : Nat} (h : v.sameTxBut c n t) (cfg : t.cfg = s.cfg)
    (ring : t.ring (.tx c) = s.ring (.tx c)) : v.sameTxBut c n s := by
  rwa [State.sameTxBut, ring, State.capacity_of_cfg _ cfg] at h

theorem State.Appended.served (ht : s.Appended c part u t) (hshort : (framedLine part u).length < s.cfg.lineCap)
    (hline : lineOf c t = .ok (framedLine part u)) (hroom : s.HasRoom .ch0 out.length) (hout : out ≠ [])
    (log : List DrvAction) :
    s.Served c (framedLine part u) (behindLine part u).tail out log (afterLine c out { t with drvLog := log }) := by
  have htx : t.ring (.tx .ch0) = s.ring (.tx .ch0) := ht.frame.ring nofun
  have hcfg := ht.frame.cfg
  have hwf : State.wf { t with drvLog := log } := ht.wf.keeps (.same .refl)
  have hlf := afterLine_lf c out { t with drvLog := log }
  obtain ⟨hlen, hread⟩ := lineOf_eq_ok.mp hline
  refine ⟨fun hbs => ?_, ?_, by rw [hlf], by rw [hlf], ht.frame.afterLine hout rfl, ?_, ?_, fun j hj => ?_,
    fun j hj => ?_⟩
  · exact afterEmitAll_holds hwf (hbs.congr hcfg htx) (ht.hasRoom hroom).room
  · exact (ht.short hshort).2.congr (afterEmitAll_cfg _ _ _) (afterEmitAll_ring_ne (c := .ch0) (q := .rx c) nofun out _)
  · exact (afterEmitAll_rd .ch0 out _).trans (congrArg Ring.rd htx)
  · exact (afterEmitAll_sameTxBut .ch0 out hwf).congr hcfg htx
  · rw [hlf]
    exact (hread j (hlen ▸ hj)).2
  · rw [hlf]
    exact ht.kept j hj

end

/-! ### `SCH.A` -/

/-- A command line that the framer makes of a valid `H` command (R251, 95_test_vectors P2). -/
theorem framed_cmdH {port pin : Byte} {i : Pin} (more : List Byte) (hcr : port ≠ 0x0D#8) (hlf : port ≠ 0x0A#8)
    (hpin : pinIndex pin = some i) :
    framedLine [] ([0x48#8, port, pin, 0x0D#8] ++ more) = [0x48#8, port, pin] ∧
      behindLine [] ([0x48#8, port, pin, 0x0D#8] ++ more) = 0x0D#8 :: more := by
  have hport : isTerm port = false := by simp [isTerm, Ascii.cr, Ascii.lf, hcr, hlf]
  have hdigit : isTerm pin = false := by
    cases h : isTerm pin with
    | false => rfl
    | true =>
      obtain rfl | rfl : pin = 0x0D#8 ∨ pin = 0x0A#8 := by simpa [isTerm, Ascii.cr, Ascii.lf] using h
      · cases hpin
      · cases hpin
  obtain ⟨h0, g0⟩ := framed_kept (part := []) (b := 0x48#8) (port :: pin :: 0x0D#8 :: more) rfl nofun
  obtain ⟨h1, g1⟩ := framed_kept (part := [0x48#8]) (pin :: 0x0D#8 :: more) hport fun _ => List.cons_ne_nil _ _
  obtain ⟨h2, g2⟩ := framed_kept (part := [0x48#8, port]) (0x0D#8 :: more) hdigit fun _ => List.cons_ne_nil _ _
  obtain ⟨h3, g3⟩ := framed_term (part := [0x48#8, port, pin]) more (List.cons_ne_nil _ _) (b := 0x0D#8) rfl
  exact ⟨h0.trans (h1.trans (h2.trans h3)), g0.trans (g1.trans (g2.trans g3))⟩

theorem exec_schA_cmdH {s : State} {port pin : Byte} {p : Nat} {i : Pin} {more : List Byte} (hrest : s.atRest)
    (hroom : s.HasRoom .ch0 6) (hlen : (s.lf.get .ch0).len = 0) (hidle : (s.lf.get .ch0).ready = false)
    (hu : s.holds (.rx .ch0) ([0x48#8, port, pin, 0x0D#8] ++ more)) (hcr : port ≠ 0x0D#8) (hlf : port ≠ 0x0A#8)
    (hport : portIndex s.cfg port = some p) (hpin : pinIndex pin = some i) :
    ∃ w, exec .schA s = .next w ∧
      s.Served .ch0 [0x48#8, port, pin] more (g3Response 0x48#8 port pin) (s.drvLog ++ [.outputHigh p i]) w := by
  have hs := hroom.wf
  have hempty : lineOf .ch0 s = .ok [] := lineOf_eq_ok.mpr (by simp [hlen])
  have hframing : s.Framing .ch0 [] ([0x48#8, port, pin, 0x0D#8] ++ more) :=
    ⟨hrest.run, hrest.env, hs, hidle, hempty, hu⟩
  obtain ⟨hline, hbehind⟩ := framed_cmdH more hcr hlf hpin
  have hshort : (framedLine [] ([0x48#8, port, pin, 0x0D#8] ++ more)).length < s.cfg.lineCap := by
    obtain ⟨_, _, hcap, _⟩ := hs.cfg
    rw [hline]
    exact hcap
  obtain ⟨t, ht, hready, htline, happend⟩ :=
    hframing.reaches_ready hshort (hbehind ▸ List.cons_ne_nil _ _) [.schADispatch]
  have hserved := ht.served hshort htline hroom (out := g3Response 0x48#8 port pin) (List.cons_ne_nil _ _)
    (s.drvLog ++ [.outputHigh p i])
  rw [hline, hbehind, List.tail_cons] at hserved
  rw [hline] at htline
  have hcommand := (ht.hasRoom hroom).reaches_cmdH hready htline (ht.frame.cfg ▸ hport) hpin
  have hdone : (afterLine .ch0 (g3Response 0x48#8 port pin) (t.logDrv (.outputHigh p i))).main = [] :=
    (afterLine_main _ _ _).trans (ht.frame.main.trans hrest.main)
  rw [State.setMain_of_main hdone] at hcommand
  have hcall : callInstr .schA s = .next (s.setMain [.call (.lfAppend .ch0), .schADispatch]) := by
    rw [← hrest.setMain_nil]
    rfl
  have hbound := hu.length_lt_configSize hs
  refine ⟨_, byMain_of_call hrest hcall (happend.trans hcommand) (by omega) hdone, ?_⟩
  rw [State.logDrv, ht.frame.drvLog]
  exact hserved

/-! ### `SCH.B` -/

section
variable {s : State} {k : Channel} {part u : List Byte} (hrest : s.atRest)
include hrest

theorem callInstr_schB : callInstr (.schB k) s = .next (s.setMain [.call (.lfAppend k), .schBForward k]) := by
  rw [← hrest.setMain_nil]
  rfl

theorem exec_schB_forwards (hroom : s.HasRoom .ch0 ((framedLine part u).length + 3))
    (hidle : (s.lf.get k).ready = false) (hpart : lineOf k s = .ok part) (hu : s.holds (.rx k) u)
    (hshort : (framedLine part u).length < s.cfg.lineCap) (hbehind : behindLine part u ≠ []) :
    ∃ w, exec (.schB k) s = .next w ∧
      s.Served k (framedLine part u) (behindLine part u).tail (auxForward k (framedLine part u)) s.drvLog w := by
  have hs := hroom.wf
  obtain ⟨t, ht, hready, htline, happend⟩ :=
    State.Framing.reaches_ready ⟨hrest.run, hrest.env, hs, hidle, hpart, hu⟩ hshort hbehind [.schBForward k]
  have hlen : (auxForward k (framedLine part u)).length = (framedLine part u).length + 3 := by simp [auxForward]
  have hserved := ht.served hshort htline (hlen ▸ hroom) (List.cons_ne_nil _ _) s.drvLog
  rw [← ht.frame.drvLog] at hserved
  have hforward := (ht.hasRoom hroom).reaches_forward hready htline
  have hdone : (afterLine k (auxForward k (framedLine part u)) t).main = [] :=
    (afterLine_main _ _ _).trans (ht.frame.main.trans hrest.main)
  rw [State.setMain_of_main hdone] at hforward
  have hbound := hu.length_lt_configSize hs
  have hbound' := hroom.length_lt
  exact ⟨_, byMain_of_call hrest (callInstr_schB hrest) (happend.trans hforward) (by omega) hdone,
    ht.frame.drvLog ▸ hserved⟩

theorem exec_schB_ready {line : List Byte} (hroom : s.HasRoom .ch0 (line.length + 3))
    (hready : (s.lf.get k).ready = true) (hline : lineOf k s = .ok line) :
    exec (.schB k) s = .next (afterLine k (auxForward k line) s) := by
  have happend : access (.call (.lfAppend k)) (s.setMain [.schBForward k]) = .next (s.setMain [.schBForward k]) :=
    callInstr_lfAppend_ready hready _
  have hforward := hroom.reaches_forward hready hline
  have hdone : (afterLine k (auxForward k line) s).main = [] := (afterLine_main _ _ _).trans hrest.main
  rw [State.setMain_of_main hdone] at hforward
  have hbound := hroom.length_lt
  exact byMain_of_call hrest (callInstr_schB hrest)
    ((State.Reaches.of_access hrest.run hrest.env happend).trans hforward) (by omega) hdone

end

section
variable {s t v : State} {k : Channel} {part u : List Byte} {b : Nat} (hrest : s.atRest)
include hrest

theorem byMain_of_settles {i : Instr} (h : (s.setMain [.call i]).Reaches b t) (ht : t.settled = true)
    (hb : b ≤ 1000 * (configSize s.cfg + 1)) : byMain i s = .next t := by
  rw [hrest.byMain_eq]
  exact h.runTurns (fun j _ => runTurns_settled ht j) ((Nat.zero_add b).le.trans (hb.trans (le_budget s _)))

/-- Where the append comes to its end with no line ready, or to a fatal error, `SCH.B` does no more (R252). -/
theorem exec_schB_of_append (h : (s.setMain [.call (.lfAppend k)]).Reaches b t) (ht : t.settled = true)
    (hb : b + 2 ≤ 1000 * (configSize s.cfg + 1))
    (hgoes : t.run = .running → t.main.all Micro.ofStep = true → t.main = [] ∧ (t.lf.get k).ready = false) :
    exec (.schB k) s = .next t := by
  have happend := h.runTurns (n := 0) (fun j _ => runTurns_settled ht j) (N := b) (by omega)
  obtain ⟨hloop, hruns⟩ :=
    runTurns_behind [.schBForward k] (s := s.setMain [.call (.lfAppend k)]) hrest.run hrest.env rfl happend
  have hbehind : ∀ N, b + 1 ≤ N →
      runTurns N ((s.setMain [.call (.lfAppend k)]).behind [.schBForward k]) = .next t := fun N hN => by
    cases hruns with
    | goes run main hreach =>
      obtain ⟨hdone, hidle⟩ := hgoes run main
      have hforward : access (.schBForward k) (t.setMain []) = .next t := by
        rw [State.setMain_of_main hdone]
        exact if_neg (by simp [hidle])
      rw [State.behind_of_done hdone] at hreach
      exact (hreach.trans (.of_access run (hloop.env.trans hrest.env) hforward)).runTurns (n := 0)
        (fun j _ => runTurns_settled ht j) (by omega)
    | stops _ hdropped => exact hdropped ht N (by omega)
  have hcall : (s.setMain [.call (.schB k)]).Reaches 1 ((s.setMain [.call (.lfAppend k)]).behind [.schBForward k]) :=
    ⟨1, le_rfl, runTurns_of_call hrest (callInstr_schB hrest)⟩
  exact (hrest.byMain_eq _).trans (hcall.runTurns hbehind (hb.trans (le_budget s _)))

/-- Nothing received and no line ready: the append ends at the empty queue. -/
theorem exec_schB_nothing (hidle : (s.lf.get k).ready = false) (hempty : (s.ring (.rx k)).rd = (s.ring (.rx k)).wr) :
    exec (.schB k) s = .next { s with ret := .byte none } := by
  have happend : (s.setMain [.call (.lfAppend k)]).Reaches 4 ((s.withRet (.byte none)).setMain []) := by
    refine ⟨4, le_rfl, fun n => ?_⟩
    rw [runTurns_call hrest.run hrest.env, callInstr_lfAppend_idle hidle, andThen_next]
    refine (runTurns_rbPop_empty hrest.run hrest.env (beq_iff_eq.mpr hempty) [.appendByte k] (n + 1)).trans ?_
    exact runTurns_access (s := s.withRet (.byte none)) hrest.run hrest.env (.appendByte k) [] rfl n
  rw [State.setMain_of_main (s := s.withRet (.byte none)) hrest.main] at happend
  exact exec_schB_of_append hrest happend (settled_of_done hrest.main) (by omega) fun _ _ => ⟨hrest.main, hidle⟩

/-- Without a complete line, or with one too long, `SCH.B` is `LF.APPEND` (R252). -/
theorem exec_schB_append {w : List Byte} (hs : s.wf) (hidle : (s.lf.get k).ready = false)
    (hpart : lineOf k s = .ok part) (hu : s.holds (.rx k) u) (hw : s.holds (.tx .ch0) w)
    (hlen : part.length < s.cfg.lineCap) (hnone : behindLine part u = [] ∨ s.cfg.lineCap ≤ (framedLine part u).length) :
    ∃ t, exec (.lfAppend k) s = .next t ∧ exec (.schB k) s = .next t ∧
      (s.cfg.lineCap ≤ (framedLine part u).length → t.inFatal .lineTooLong) := by
  obtain ⟨t, ht, hreach⟩ := runTurns_lfAppend ⟨hrest.run, hrest.env, hs, hidle, hpart, hu⟩ hlen []
  have hrun := ht.frame.run.trans hrest.run
  have henv := ht.frame.env.trans hrest.env
  have hbound := hu.length_lt_configSize hs
  by_cases hshort : (framedLine part u).length < s.cfg.lineCap
  · have hdone : t.main = [] := ht.frame.main.trans hrest.main
    have hnotReady : (t.lf.get k).ready = false := by
      rw [← Bool.not_eq_true, (ht.short hshort).1]
      exact not_not_intro (hnone.resolve_right (by omega))
    rw [afterAppend, if_pos hshort, State.setMain_of_main hdone] at hreach
    have hset := settled_of_done hdone
    exact ⟨t, byMain_of_settles hrest hreach hset (by omega),
      exec_schB_of_append hrest hreach hset (by omega) fun _ _ => ⟨hdone, hnotReady⟩, fun hlong => by omega⟩
  · have htw : t.holds (.tx .ch0) w := hw.congr ht.frame.cfg (ht.frame.ring nofun)
    rw [afterAppend, if_neg hshort] at hreach
    obtain ⟨v, hset, hfatal, hreport⟩ := raiseFatal_settles ht.wf hrun henv htw .lineTooLong
    rw [ht.frame.cfg] at hreport
    have hfails := State.Reaches.trans hreach hreport
    refine ⟨v, byMain_of_settles hrest hfails hset (by omega),
      exec_schB_of_append hrest hfails hset (by omega) fun hvrun hmain => ?_, fun _ => hfatal⟩
    obtain hhalted | ⟨_, hahead⟩ := hfatal.goes
    · cases hvrun.symm.trans hhalted
    · cases List.all_eq_true.mp hmain _ hahead

end

/-! ### `SCH.C` -/

/-- A poll that is due: `last_poll` takes the clock value read, and what follows is `PM.POLL` (R253). -/
theorem exec_schC_due {s : State} (hrest : s.atRest) (hroom : s.HasRoom .ch0 s.pollReport.length)
    (hdue : pollDue s.msClock s.lastPoll = true) :
    exec .schC s = exec .pmPoll { s with lastPoll := s.msClock } := by
  have hrest' : State.atRest { s with lastPoll := s.msClock } := ⟨hrest.run, hrest.main, hrest.env⟩
  have hroom' : State.HasRoom .ch0 s.pollReport.length { s with lastPoll := s.msClock } := hroom.acted (.same .refl)
  have hcall : callInstr .schC s = .next (State.setMain { s with lastPoll := s.msClock } [.call .pmPoll]) := by
    rw [← hrest.setMain_nil]
    exact if_pos hdue
  have hdone : (afterPorts s.cfg.numPorts { s with lastPoll := s.msClock }).main = [] :=
    (afterEmitAll_main ..).trans hrest.main
  have hpoll := State.HasRoom.reaches_pmPoll (s := { s with lastPoll := s.msClock }) hroom' []
  rw [State.setMain_of_main hdone] at hpoll
  have hbound : s.pollReport.length < configSize s.cfg := hroom.length_lt
  have hports : s.cfg.numPorts ≤ configSize s.cfg := numPorts_le_configSize _
  have hreport : State.pollReport { s with lastPoll := s.msClock } = s.pollReport := rfl
  rw [exec_pmPoll hrest' hroom']
  exact byMain_of_call hrest hcall hpoll (by rw [hreport]; dsimp only; omega) hdone

/-! ### The obligations -/

/-- Settles O37: the framer makes the line of the command, which acts and answers. -/
theorem schARunsOneCommand : Obligations.SchARunsOneCommand := by
  intro s port pin p i more bs hs hrest hi hlen hidle hrx htx hroom hcr hlf hport hpin
  obtain ⟨w, hexec, sent, queued, len, ready, frame, rd, store, _, kept⟩ :=
    exec_schA_cmdH hrest ⟨hrest.run, hrest.env, hi, hs, hroom⟩ hlen hidle hrx hcr hlf hport hpin
  exact ⟨w, hexec, sent htx, queued, len, ready, frame, rd, store, kept⟩

/-- Settles O38: the line the append makes is forwarded; without one, or with one too long, the step is the append; a
ready line is forwarded at once; an empty queue ends the append. -/
theorem schBForwardsReadyLine : Obligations.SchBForwardsReadyLine := by
  intro s k bytes hs hrest _
  refine ⟨fun part u bs hidle hpart hu hbs => ⟨fun hbehind hshort hi hroom => ?_, fun hnone hlen => ?_⟩,
    fun hready hi hline hroom => ?_, fun hidle hempty => exec_schB_nothing hrest hidle hempty⟩
  · obtain ⟨w, hexec, sent, queued, len, ready, frame, rd, store, stored, kept⟩ :=
      exec_schB_forwards hrest ⟨hrest.run, hrest.env, hi, hs, hroom⟩ hidle hpart hu hshort hbehind
    have hlen : (auxForward k (framedLine part u)).length = (framedLine part u).length + 3 := by simp [auxForward]
    have hbytes : bs ++ auxForward k (framedLine part u) =
        bs ++ [BitVec.ofNat 8 (0x30 + k.index)] ++ framedLine part u ++ [0x0D#8, 0x0A#8] := by
      simp [auxForward, channelDigit]
    exact ⟨w, hexec, hbytes ▸ sent hbs, queued, len, ready, frame, rd, hlen ▸ store, stored, kept⟩
  · exact exec_schB_append hrest hs hidle hpart hu hbs hlen hnone
  · exact exec_schB_ready hrest ⟨hrest.run, hrest.env, hi, hs, hroom⟩ hready hline

/-- Settles O39: the elapsed ticks decide; the poll that is due is `PM.POLL` from the state with `last_poll` written. -/
theorem schCPollsWhenDue : Obligations.SchCPollsWhenDue := by
  intro s bs hs hrest
  refine ⟨fun hearly => ?_, fun hdue hi hbs hroom => ?_⟩
  · have hcall : callInstr .schC s = .next s := if_neg (by simpa [pollDue, pollTicks] using hearly)
    exact byMain_of_call hrest hcall (.refl s) (by omega) hrest.main
  · have hdue : pollDue s.msClock s.lastPoll = true := decide_eq_true hdue
    have hexec := exec_schC_due hrest ⟨hrest.run, hrest.env, hi, hs, hroom⟩ hdue
    obtain ⟨t, ht, hsent, hlast, _, _, _, hframe, hrd, hstore⟩ :=
      pollReportsChangesAndSamples { s with lastPoll := s.msClock } bs (hs.keeps (.same .refl))
        ⟨hrest.run, hrest.main, hrest.env⟩ hi hbs hroom
    have hpoll : t.lastPoll = s.msClock := congrArg (·.lastPoll) hframe
    refine ⟨t, hexec.trans ht, hpoll, hlast, hsent, ?_, hrd, hstore⟩
    rw [hpoll]
    exact hframe

end Sys2Proof.Machine
end

section
/-!
The obligations of 60_exceptions on the masking of handlers (R281), the critical section (R297, R298), and a fatal error that
is not left (R277, R295).
-/
namespace Sys2Proof.Machine

/-! ### Handlers that may not start -/

theorem not_interruptible {s : State} (h : s.ie = false ∨ s.isrActive = true) : ¬ s.interruptible = true := by
  rcases h with h | h <;> simp [State.interruptible, h]

/-- Settles O21: each handler is guarded by the conditions of R281. -/
theorem interruptsNotTakenWhenMasked : Obligations.InterruptsNotTakenWhenMasked := by
  refine fun s c b => ⟨fun hmasked => ?_, fun h => if_neg ?_⟩
  · have hnot := not_interruptible hmasked
    exact ⟨if_neg hnot, if_neg hnot, if_neg hnot⟩
  · rw [Bool.and_eq_true, not_and_or]
    rcases h with hi | hactive | hpending
    · exact .inl (not_interruptible (.inl hi))
    · exact .inl (not_interruptible (.inr hactive))
    · refine .inr ?_
      rcases hpending with h | h <;> simp [State.txiPending, h]

/-- Settles O29: each is one access. -/
theorem criticalSectionSavesAndRestores : Obligations.CriticalSectionSavesAndRestores := fun s hrest =>
  ⟨byMain_of_turns hrest (k := 1) (t := critEnter s) (runTurns_call hrest.run hrest.env .sysCritEnter []),
    fun saved => byMain_of_turns hrest (k := 1) (t := critExit saved s)
      (runTurns_call hrest.run hrest.env (.sysCritExit saved) [])⟩

/-! ### A fatal error under way -/

section
variable {kind : FatalKind} {s t u : State}

/-- The report, once begun, is not touched by what is fetched behind it. -/
theorem State.fatalUnderway.readied (hs : s.fatalUnderway kind) (h : s.Readied u) : u.fatalUnderway kind := by
  obtain ⟨_, _, ms, _, _, _, rfl⟩ := h
  obtain ⟨hie, hhalted | ⟨hrun, pre, post, hmain, hpre⟩⟩ := hs
  · exact ⟨hie, .inl hhalted⟩
  · exact ⟨hie, .inr ⟨hrun, pre, post ++ ms, by simp [hmain], hpre⟩⟩

theorem State.fatalUnderway.event (hs : s.fatalUnderway kind) (h : s.AfterEvent t) : t.fatalUnderway kind := by
  unfold State.fatalUnderway at hs ⊢
  rwa [h.owned.ie, h.owned.run, h.owned.main]

theorem State.resetAhead_congr (env : t.env = s.env) (requests : t.requests = s.requests) :
    t.resetAhead ↔ s.resetAhead := by
  rw [State.resetAhead, State.resetAhead, env, requests]

/-- Without a reset ahead every part of a step leaves the fatal error under way (R277, R295). -/
theorem fatalUnderway_stepInvariant (kind : FatalKind) :
    StepInvariant fun s => s.fatalUnderway kind ∧ ¬ s.resetAhead where
  readied hs h := ⟨hs.1.readied h, hs.2 ∘ h.resetAhead⟩
  reset hs ha _ := absurd ha hs.2
  event hs h := ⟨hs.1.event h, hs.2 ∘ (State.resetAhead_congr h.keeps.env h.keeps.requests).mp⟩
  access hs hrun hmain t ht := by
    have hframe := hs.1.frame hrun hmain t ht
    have hrequests : t.requests = _ := congrArg (·.requests) hframe.rest
    exact ⟨hs.1.access hrun hmain t ht, hs.2 ∘ (State.resetAhead_congr hframe.env hrequests).mp⟩

end

/-- Settles O53: the fatal error under way, with no reset ahead, is kept by every part of a step. -/
theorem fatalIsNotLeft : Obligations.FatalIsNotLeft := by
  intro s t kind hs henv hreqs h
  have hahead : ¬ s.resetAhead := fun ha => ha.elim (henv _ · rfl) fun ⟨r, hr, hd⟩ => hreqs r hr hd
  exact ((fatalUnderway_stepInvariant kind).step ⟨hs, hahead⟩ h).1

end Sys2Proof.Machine
end

section
/-!
The fatal report of 60_exceptions R274 under the schedule that makes the transmitter ready: a `MaskedPath` to the halt, at whose
end it is known what has been sent. The storage of `tx[0]` is followed as pushes to a ring (`Ring.Pushed`).
-/
namespace Sys2Proof.Machine

/-! ### Pushes to a ring -/

/-- `r` is the ring `r₀` of capacity `n` after pushes of `m` bytes, and any pops: `wr` has advanced by `m`, and only the slots
it has passed have been stored to (40_ring_buffer R134, R135). -/
structure Ring.Pushed (n m : Nat) (r₀ r : Ring) : Prop where
  wr : r.wr = (r₀.wr + m) % n
  store : ∀ k, (∀ j < m, k ≠ (r₀.wr + j) % n) → Memory.read r.store k = Memory.read r₀.store k

section
variable {n m : Nat} {r₀ r : Ring}

theorem Ring.Pushed.refl (h : r.wr < n) : Ring.Pushed n 0 r r := ⟨(Nat.mod_eq_of_lt h).symm, fun _ _ => rfl⟩

theorem Ring.Pushed.push (h : Ring.Pushed n m r₀ r) (b : Byte) (rd : Nat) :
    Ring.Pushed n (m + 1) r₀ { store := Memory.write r.store r.wr b, rd := rd, wr := nextIndex n r.wr } where
  wr := by rw [h.wr, nextIndex, Nat.mod_add_mod, Nat.add_assoc]
  store k hk := by
    have hslot : k ≠ r.wr := h.wr ▸ hk m (Nat.lt_succ_self m)
    rw [Memory.read_write_ne _ _ hslot]
    exact h.store k fun j hj => hk j (Nat.lt_succ_of_lt hj)

theorem Ring.Pushed.pop {r' : Ring} (h : Ring.Pushed n m r₀ r) (wr : r'.wr = r.wr) (store : r'.store = r.store) :
    Ring.Pushed n m r₀ r' := ⟨wr.trans h.wr, store ▸ h.store⟩

end

/-! ### What the synchronous path leaves -/

/-- What `CH.TX` and `CH.DRAIN` on channel `c` may leave of `s` with `I = 0`: the ring `r`, `out` sent, the transmitter's flag
`ready` and a returned value. -/
def State.emitted (s : State) (c : Channel) (r : Ring) (out : List Byte) (ready : Bool) (ret : Ret) : State :=
  { s.setRing (.tx c) r with
    wireOut := s.wireOut.set c (s.wireOut.get c ++ out)
    txReady := s.txReady.set c ready
    ret := ret }

/-- `CH.TX` and `CH.DRAIN` on channel `c` have taken `s` further: `m` bytes pushed, `out` sent (41_channel R154, R155). -/
inductive State.Emitted (c : Channel) (m : Nat) (out : List Byte) (s : State) : State → Prop
  | intro (r : Ring) (ready : Bool) (ret : Ret) (h : Ring.Pushed (s.capacity (.tx c)) m (s.ring (.tx c)) r) :
    Emitted c m out s (s.emitted c r out ready ret)

section
variable {c : Channel} {s t : State} {m : Nat} {out : List Byte}

theorem State.Emitted.refl (hs : s.wf) (c : Channel) : s.Emitted c 0 [] s := by
  have hself : s.emitted c (s.ring (.tx c)) [] (s.txReady.get c) s.ret = s := by
    rw [State.emitted, List.append_nil, Four.set_get, Four.set_get, State.setRing_ring]
  have h := State.Emitted.intro (out := []) (s.ring (.tx c)) (s.txReady.get c) s.ret (.refl (hs.wr_lt _))
  rwa [hself] at h

/-- `CH.TX(c, b)` with `bs` queued: the byte is pushed, and all of them are sent. -/
theorem State.Emitted.sent (h : s.Emitted c m out t) (b : Byte) (bs : List Byte) (v : Bool) :
    s.Emitted c (m + 1) (out ++ (bs ++ [b])) ((t.afterPush (.tx c) b).drained c (bs ++ [b]) v) := by
  obtain ⟨r, ready, ret, hr⟩ := h
  have hsent : ((s.emitted c r out ready ret).afterPush (.tx c) b).drained c (bs ++ [b]) v =
      s.emitted c ⟨Memory.write r.store r.wr b, nextIndex (s.capacity (.tx c)) r.wr, nextIndex (s.capacity (.tx c)) r.wr⟩
        (out ++ (bs ++ [b])) v (.bool true) := by
    simp only [State.drained, State.afterPush, State.emitted, State.setRing, State.withRet, State.ring, Four.set_set,
      Four.get_set_same, List.append_assoc]
  rw [hsent]
  exact .intro _ _ _ (hr.push b _)

/-- A full buffer drained first makes no difference to what `CH.TX` leaves (R154 u1). -/
theorem drained_afterPush_drained (s : State) (c : Channel) (b : Byte) (bs : List Byte) (v v' : Bool) :
    ((s.drained c bs v).afterPush (.tx c) b).drained c [b] v' = (s.afterPush (.tx c) b).drained c (bs ++ [b]) v' := by
  simp only [State.drained, State.afterPush, State.setRing, State.withRet, State.ring, Four.set_set, Four.get_set_same,
    List.append_assoc]

/-- A push into a full buffer leaves it empty, into any other its byte behind the queue. -/
theorem afterPush_masked (hs : s.Masked c) (b : Byte) : (s.afterPush (.tx c) b).Masked c := by
  refine ⟨hs.run, hs.env, hs.ie, (hs.wf.afterEmit c b).keeps (.same .refl), ?_⟩
  cases hf : s.isFull (.tx c) with
  | false =>
    obtain ⟨bs, hbs⟩ := hs.written
    exact ⟨_, afterPush_holds hs.wf hbs hf b⟩
  | true =>
    have hring : (s.afterPush (.tx c) b).ring (.tx c) = _ := s.ring_setRing (.tx c) _
    exact ⟨[], State.holds_nil (by rw [hring]; exact (beq_iff_eq.mp hf).symm)⟩

end

/-! ### The report on a path -/

section
variable {c : Channel} {Q : State → Prop} {s s₀ : State} {rest : List Micro} {k m : Nat} {bs out : List Byte}

/-- `CH.TX` with `I = 0`, on a path: the byte is pushed, and sent with all that was queued (R154 u1 to u3). -/
theorem MaskedPath.emit_sends (hs : s.Masked c) (hbs : s.holds (.tx c) bs) (b : Byte)
    (next : ∀ v, MaskedPath c Q rest ((s.afterPush (.tx c) b).drained c (bs ++ [b]) v) k) :
    MaskedPath c Q (Machine.emit c b :: rest) s (k + 10 * bs.length + if s.isFull (.tx c) then 30 else 24) := by
  have hfound : (s.withRet (.bool (s.isFull (.tx c)))).Masked c := hs.keeps (.same .refl)
  have htest {j : Nat} (h : MaskedPath c Q (.txMakeRoom c b :: rest) (s.withRet (.bool (s.isFull (.tx c)))) j) :
      MaskedPath c Q (Machine.emit c b :: rest) s (j + 2 + 1) :=
    .step (ms := .call (.rbFull (.tx c)) :: .txMakeRoom c b :: rest) (s' := s) hs.run hs.ie (.rbFull hs.run hs.ie h)
      fun _ _ _ => if_neg (by simp [State.amid, hs.ie])
  cases hf : s.isFull (.tx c) with
  | false =>
    rw [hf] at hfound htest
    have hpath := htest (.step hs.run hs.ie (.pushDrain hfound hbs hf next) fun _ _ _ => rfl)
    convert hpath using 1
    simp
    omega
  | true =>
    rw [hf] at hfound htest
    have hempty (v : Bool) := drained_masked hfound bs v
    have hpath := htest (.step (s' := s.withRet (.bool true)) hs.run hs.ie (.chDrain hfound hbs fun v =>
      .pushDrain (hempty v) (drained_holds bs v) ((hempty v).not_full (drained_holds bs v)) fun v' =>
        drained_afterPush_drained (s.withRet (.bool true)) c b bs v v' ▸ next v') fun _ _ _ => rfl)
    convert hpath using 1
    simp
    omega

/-- Bytes after the first find the buffer empty. -/
theorem MaskedPath.emitAll_sends (hs : s.Masked c) (he : s.holds (.tx c) []) (h : s₀.Emitted c m out s)
    (next : ∀ t : State, t.Masked c → t.holds (.tx c) [] → s₀.Emitted c (m + bs.length) (out ++ bs) t →
      MaskedPath c Q rest t k) :
    MaskedPath c Q (Machine.emitAll c bs ++ rest) s (k + 24 * bs.length) := by
  induction bs generalizing s m out with
  | nil => exact next s hs he ((List.append_nil out).symm ▸ h)
  | cons b bs ih =>
    have hpath := MaskedPath.emit_sends hs he b (rest := Machine.emitAll c bs ++ rest) fun v =>
      ih (drained_masked (afterPush_masked hs b) _ v) (drained_holds _ v) (h.sent b [] v) fun t ht he h => next t ht he (by
        rw [List.append_assoc, Nat.add_right_comm] at h
        exact h)
    rwa [hs.not_full he] at hpath

/-- h3 and h4 as one (60_exceptions R274, R276). -/
def State.halt (s : State) (kind : FatalKind) : State :=
  { s with run := .halted kind, wdtArmed := s.wdtArmed || s.cfg.fatalAction == .watchdog }

theorem access_fatalArm (s : State) :
    access .fatalArm s = .next { s with wdtArmed := s.wdtArmed || s.cfg.fatalAction == .watchdog } := by
  show atFatalArm s = _
  unfold atFatalArm
  split
  · simp [State.wdtArm, *]
  · rename_i hact
    rw [hact, show (FatalAction.spin == FatalAction.watchdog) = false from rfl, Bool.or_false]

theorem MaskedPath.halt_exact (hrun : s.run = .running) (hi : s.ie = false) {kind : FatalKind} (h : Q (s.halt kind)) :
    MaskedPath c Q [.fatalArm, .fatalHalt kind] s 2 :=
  .step (s' := { s with wdtArmed := s.wdtArmed || s.cfg.fatalAction == .watchdog }) hrun hi
    (.step (ms := []) (s' := s.halt kind) hrun hi (.done h) fun _ _ _ => rfl) fun _ _ _ => access_fatalArm _

/-- The whole report has taken `s`, with `bs` queued, to `u`: they are sent, and the diagnostic behind them (30_encoding R111),
and `MAIN` is halted. -/
def State.FatalReported (kind : FatalKind) (bs : List Byte) (s u : State) : Prop :=
  ∃ w : State, w.wf ∧ w.holds (.tx .ch0) [] ∧
    s.Emitted .ch0 (diagnostic s.cfg kind).length (bs ++ diagnostic s.cfg kind) w ∧ u = w.halt kind

/-- h2 to h4 on a path (60_exceptions R274). -/
theorem MaskedPath.report (hs : s.Masked .ch0) (hbs : s.holds (.tx .ch0) bs) (kind : FatalKind) :
    ∃ k ≤ 10 * bs.length + 24 * (diagnostic s.cfg kind).length + 8,
      MaskedPath .ch0 (s.FatalReported kind bs)
        (Machine.emitAll .ch0 (diagnostic s.cfg kind) ++ [.fatalArm, .fatalHalt kind]) s k := by
  obtain ⟨b, more, hdiag⟩ : ∃ b more, diagnostic s.cfg kind = b :: more := ⟨_, _, rfl⟩
  have hreported {w : State} (hw : w.Masked .ch0) (he : w.holds (.tx .ch0) [])
      (h : s.Emitted .ch0 (0 + 1 + more.length) ([] ++ (bs ++ [b]) ++ more) w) : s.FatalReported kind bs (w.halt kind) := by
    refine ⟨w, hw.wf, he, ?_, rfl⟩
    rw [hdiag]
    simpa [Nat.add_comm] using h
  have hpath := MaskedPath.emit_sends (rest := Machine.emitAll .ch0 more ++ [.fatalArm, .fatalHalt kind]) hs hbs b fun v =>
    MaskedPath.emitAll_sends (drained_masked (afterPush_masked hs b) _ v) (drained_holds _ v)
      ((State.Emitted.refl hs.wf _).sent b bs v) fun w hw he h => .halt_exact hw.run hw.ie (hreported hw he h)
  rw [hdiag]
  refine ⟨_, ?_, hpath⟩
  rw [List.length_cons]
  split <;> omega

end

/-- Settles O51: under the schedule of R158's fairness the report comes to the end of its path. -/
theorem fatalReportsAndHalts : Obligations.FatalReportsAndHalts := by
  intro s kind bs n hs hrun hmain hbs henv hn
  have hent : State.Masked .ch0 { s.setEnv [] with ie := false } :=
    ⟨hrun, rfl, rfl, (hs.readied (.setEnv List.nil_suffix)).keeps (.same .refl), bs, hbs⟩
  obtain ⟨k, hk, hpath⟩ : ∃ k ≤ 10 * bs.length + 24 * (diagnostic s.cfg kind).length + 8, _ :=
    MaskedPath.report hent hbs kind
  have hqueued : bs.length < s.capacity (.tx .ch0) := hbs.length_eq ▸ hs.count_lt _
  obtain ⟨j, rfl⟩ : ∃ j, n = j + k + 1 := ⟨n - k - 1, by omega⟩
  obtain ⟨_, v, ⟨w, hw, hempty, hsent, rfl⟩, hend⟩ :=
    hpath.completes j (r := s.txReady.set .ch0 true) s.pinIn fun _ => Four.get_set_same _ _ true
  have hexec : exec (.sysFatal kind) s = .next (((w.halt kind).amid (readySchedule .ch0 j)
      ((s.txReady.set .ch0 true).set .ch0 v) s.pinIn).setMain []) := by
    refine byMain_of_settled hrun hmain (k := 2 * k + 2) (fun m => ?_) ?_ (settled_of_done rfl)
    · have hself : s.setMain [.call (.sysFatal kind)] =
          (s.amid (readySchedule .ch0 (j + k + 1)) s.txReady s.pinIn).setMain [.call (.sysFatal kind)] := by
        rw [← henv]
        rfl
      rw [← Nat.add_assoc, ← hend, hself, runTurns_readySchedule hrun]
      rfl
    · rw [henv, readySchedule_length]
      omega
  obtain ⟨r, ready, ret, hr⟩ := hsent
  have hdrained : r.rd = r.wr := beq_iff_eq.mp ((hw.isEmpty_iff (.tx .ch0)).mpr hempty.length_eq.symm)
  refine ⟨_, hexec, hdrained, hr.wr, hr.store, ?_⟩
  rw [List.append_assoc]
  rfl

end Sys2Proof.Machine
end

section
/-!
`SYS.FATAL` executed alone (60_exceptions R274, R277): how far the diagnostic has been pushed to `tx[0]` wherever `MAIN` stands
in the report. `PushPhase` says what `MAIN` still has to do to the buffer; with the run known to come to the halt or to a wait
(`raiseFatal_settles`), it gives the slots stored to.
-/
namespace Sys2Proof

/-- Arrays that agree on every other channel. -/
theorem Four.eq_set {α : Type} {f g : Four α} {c : Channel} (h : ∀ d, d ≠ c → g.get d = f.get d) :
    g = f.set c (g.get c) := by
  have hget (d : Channel) : g.get d = (f.set c (g.get c)).get d := by
    rw [Four.get_set]
    split
    · rename_i hd
      rw [hd]
    · exact h d ‹_›
  exact (Four.mk.injEq ..).mpr ⟨hget .ch0, hget .ch1, hget .ch2, hget .ch3⟩

namespace Machine

/-! ### Where the report stands -/

/-- The positions of `CH.TX` with `I = 0` on channel `c` from which a byte is still to be pushed, outside the push itself. -/
def Micro.pushes (c : Channel) : Micro → Bool
  | .call (.chTx d _) => d == c
  | .call (.rbPush q _) => q == .tx c
  | .txMakeRoom d _ => d == c
  | _ => false

/-- h3 and h4 (60_exceptions R274). -/
def Micro.stops : Micro → Bool
  | .fatalArm => true
  | .fatalHalt _ => true
  | _ => false

/-- The positions of the report on channel `c` outside a push. -/
def Micro.outsidePush (c : Channel) (m : Micro) : Bool := m.storeless c false || m.pushes c || m.stops

/-- What `MAIN` has left, the report on channel `c`, will push no more than `n` bytes in all to the buffer of capacity `N`
that was `r₀` and is `r` now; inside a push (40_ring_buffer R134) it stands at s2, s3 or s4. -/
inductive PushPhase (c : Channel) (N n : Nat) (r₀ r : Ring) : List Micro → Prop
  | outside {m : Nat} {ms : List Micro} (h : Ring.Pushed N m r₀ r) (hms : ∀ x ∈ ms, x.outsidePush c = true)
    (hn : m + ms.countP (·.pushes c) ≤ n) : PushPhase c N n r₀ r ms
  | room {m : Nat} {b : Byte} {ms : List Micro} (h : Ring.Pushed N m r₀ r) (hms : ∀ x ∈ ms, x.outsidePush c = true)
    (hn : m + 1 + ms.countP (·.pushes c) ≤ n) : PushPhase c N n r₀ r (.pushRd (.tx c) b r.wr :: ms)
  | store {m : Nat} {b : Byte} {ms : List Micro} (h : Ring.Pushed N m r₀ r) (hms : ∀ x ∈ ms, x.outsidePush c = true)
    (hn : m + 1 + ms.countP (·.pushes c) ≤ n) : PushPhase c N n r₀ r (.pushStore (.tx c) b r.wr :: ms)
  | index {m : Nat} {ms : List Micro} (h : Ring.Pushed N m r₀ { r with wr := nextIndex N r.wr })
    (hms : ∀ x ∈ ms, x.outsidePush c = true) (hn : m + ms.countP (·.pushes c) ≤ n) :
    PushPhase c N n r₀ r (.pushWr (.tx c) r.wr :: ms)

section
variable {c : Channel} {N n : Nat} {r₀ : Ring} {u : State} {x : Micro} {rest : List Micro}

theorem Micro.not_pushes_of_storeless (h : x.storeless c false = true) : x.pushes c = false := by
  cases x with
  | call i => cases i <;> simp_all [Micro.storeless, Micro.pushes]
  | _ => simp_all [Micro.storeless, Micro.pushes]

/-- What an access of the report leaves: `MAIN` stands in the report again, and runs or has nothing left. -/
def State.StandsIn (c : Channel) (N n : Nat) (r₀ : Ring) (u : State) : Prop :=
  PushPhase c N n r₀ (u.ring (.tx c)) u.main ∧ (u.run = .running ∨ u.main = [])

/-- `CH.DRAIN`, the test of `CH.TX` and the critical section store nothing. -/
theorem access_storeless_standsIn {m : Nat} (hx : x.storeless c false = true) (hrun : u.run = .running) (hi : u.ie = false)
    (h : Ring.Pushed N m r₀ (u.ring (.tx c))) (hrest : ∀ y ∈ rest, y.outsidePush c = true)
    (hn : m + rest.countP (·.pushes c) ≤ n) : Res.All (access x (u.setMain rest)) (State.StandsIn c N n r₀) := by
  intro t ht
  obtain ⟨hframe, hstore, hwr, _, ms, hmain, hms⟩ := access_storeless (s := u.setMain rest) hx (by simp [hi]) t ht
  have hnone : ms.countP (·.pushes c) = 0 :=
    List.countP_eq_zero.mpr fun y hy => by simp [Micro.not_pushes_of_storeless (hms y hy)]
  refine ⟨.outside (h.pop hwr hstore) ?_ ?_, .inl ((congrArg (·.run) hframe.rest).trans hrun)⟩
  · rw [hmain]
    exact fun y hy => (List.mem_append.mp hy).elim (fun h => by simp [Micro.outsidePush, hms y h]) (hrest y)
  · rw [hmain, List.countP_append, hnone, Nat.zero_add]
    exact hn

/-- `CH.TX` up to its push. -/
theorem access_pushes_standsIn {m : Nat} (hx : x.pushes c = true) (hrun : u.run = .running) (hi : u.ie = false)
    (h : Ring.Pushed N m r₀ (u.ring (.tx c))) (hrest : ∀ y ∈ rest, y.outsidePush c = true)
    (hn : m + 1 + rest.countP (·.pushes c) ≤ n) : Res.All (access x (u.setMain rest)) (State.StandsIn c N n r₀) := by
  have hmore {ms : List Micro} (hms : ∀ y ∈ ms, y.outsidePush c = true) (hone : ms.countP (·.pushes c) = 1) :
      State.StandsIn c N n r₀ (u.setMain (ms ++ rest)) := by
    refine ⟨.outside h (fun y hy => (List.mem_append.mp hy).elim (hms y) (hrest y)) ?_, .inl hrun⟩
    rw [State.setMain_main, List.countP_append, hone, ← Nat.add_assoc]
    exact hn
  cases x with
  | call i =>
    cases i with
    | chTx d b =>
      obtain rfl : d = c := beq_iff_eq.mp hx
      refine Res.all_ite (fun h => absurd h (by simp [hi])) fun _ => Res.all_next (hmore (ms := [_, _]) ?_ ?_)
      · simp [Micro.outsidePush, Micro.storeless, Micro.pushes]
      · simp [Micro.pushes]
    | rbPush q b =>
      obtain rfl := beq_iff_eq.mp hx
      exact Res.all_next ⟨.room h hrest hn, .inl hrun⟩
    | _ => cases hx
  | txMakeRoom d b =>
    obtain rfl : d = c := beq_iff_eq.mp hx
    refine Res.all_ite (fun _ => Res.all_next (hmore (ms := [_, _, _]) ?_ ?_)) fun _ =>
      Res.all_next (hmore (ms := [_, _]) ?_ ?_)
    all_goals simp [Micro.outsidePush, Micro.storeless, Micro.pushes]
  | _ => cases hx

/-- Any access of the report. -/
theorem PushPhase.access (h : PushPhase c N n r₀ (u.ring (.tx c)) (x :: rest)) (hN : u.capacity (.tx c) = N)
    (hrun : u.run = .running) (hi : u.ie = false) : Res.All (access x (u.setMain rest)) (State.StandsIn c N n r₀) := by
  subst hN
  cases h with
  | outside h hms hn =>
    obtain ⟨hx, hrest⟩ := List.forall_mem_cons.mp hms
    rw [List.countP_cons] at hn
    rw [Micro.outsidePush, Bool.or_eq_true, Bool.or_eq_true] at hx
    obtain (hx | hx) | hx := hx
    · exact access_storeless_standsIn hx hrun hi h hrest (by omega)
    · exact access_pushes_standsIn hx hrun hi h hrest (by rw [if_pos hx] at hn; omega)
    · have hgoes : PushPhase c (u.capacity (.tx c)) n r₀ (u.ring (.tx c)) rest := .outside h hrest (by omega)
      cases x with
      | fatalArm =>
        rw [access_fatalArm]
        exact Res.all_next ⟨hgoes, .inl hrun⟩
      | fatalHalt kind => exact Res.all_next ⟨.outside h nofun (by simp; omega), .inr rfl⟩
      | _ => cases hx
  | room h hrest hn =>
    exact Res.all_ite (fun _ => Res.all_next ⟨.outside h hrest (by simp; omega), .inl hrun⟩)
      fun _ => Res.all_next ⟨.store h hrest hn, .inl hrun⟩
  | store h hrest hn =>
    refine Res.all_andThen fun t ht => ?_
    obtain ⟨_, rfl⟩ := writeSlot_next ht
    refine Res.all_next ⟨?_, .inl hrun⟩
    rw [State.push_ring, State.ring_setRing]
    exact .index (h.push _ _) hrest hn
  | index h hrest hn =>
    refine Res.all_next ⟨.outside ?_ hrest hn, .inl hrun⟩
    have hring := (u.setMain rest).ring_setWr (.tx c) (nextIndex (u.capacity (.tx c)) (u.ring (.tx c)).wr)
    exact (hring.symm ▸ h :)

end

/-! ### The run -/

section
variable {kind : FatalKind} {s t : State}

/-- `SYS.FATAL` is entered with the whole diagnostic still to be pushed. -/
theorem enterFatal_standsIn (hs : s.wf) (hrun : s.run = .running) : State.StandsIn .ch0 (s.capacity (.tx .ch0))
    (diagnostic s.cfg kind).length (s.ring (.tx .ch0)) (enterFatal kind s) := by
  refine ⟨.outside (.refl (hs.wr_lt _)) ?_ ?_, .inl hrun⟩
  · simp [enterFatal, emitAll, Micro.outsidePush, Micro.pushes, Micro.stops, or_imp, forall_and]
  · simp [enterFatal, emitAll, Micro.pushes, Function.comp_def, List.countP_map]

/-- With `MAIN` alone the report stays under way, keeps its frame, and stands in itself. -/
theorem runTurns_enterFatal (hs : s.wf) (hrun : s.run = .running) (henv : s.env = []) {n : Nat}
    (h : runTurns n (enterFatal kind s) = .next t) : t.fatalUnderway kind ∧ s.ReportFrame .ch0 t ∧
      State.StandsIn .ch0 (s.capacity (.tx .ch0)) (diagnostic s.cfg kind).length (s.ring (.tx .ch0)) t := by
  refine runTurns_alone (P := fun u => u.fatalUnderway kind ∧ s.ReportFrame .ch0 u ∧ State.StandsIn .ch0 _ _ _ u)
    (fun u hu => hu.2.1.env.trans henv) (fun {u m rest} ⟨hf, hframe, hphase, hstop⟩ hmain v hv => ?_)
    ⟨enterFatal_underway hrun, .same _ _ _ _, enterFatal_standsIn hs hrun⟩ h
  have hrunning : u.run = .running := hstop.resolve_right (by simp [hmain])
  have hcap : u.capacity (.tx .ch0) = s.capacity (.tx .ch0) := State.capacity_of_cfg _ hframe.cfg
  exact ⟨hf.access hrunning hmain v hv, hframe.trans (hf.frame hrunning hmain v hv),
    (hmain ▸ hphase).access hcap hrunning hf.1 v hv⟩

/-- At the halt, or at a wait, no push is half done. -/
theorem State.StandsIn.settled {c : Channel} {N n : Nat} {r₀ : Ring} (h : State.StandsIn c N n r₀ t)
    (ht : t.settled = true) : ∃ m ≤ n, Ring.Pushed N m r₀ (t.ring (.tx c)) := by
  obtain ⟨hphase, hstop⟩ := h
  generalize hms : t.main = ms at hphase
  have hnot {x : Micro} {rest : List Micro} (hmain : t.main = x :: rest) (hx : (t.setMain (x :: rest)).waiting = false) :
      False := by
    have hrun := hstop.resolve_right (by simp [hmain])
    rw [State.setMain_of_main hmain] at hx
    simp [State.settled, State.idle, hmain, hrun, hx] at ht
  cases hphase with
  | outside h _ hn => exact ⟨_, by omega, h⟩
  | room | store | index => exact (hnot hms rfl).elim

end

/-- Settles O52: the report comes to the halt or to a wait, and no push is half done there. -/
theorem fatalEntryDisablesInterrupts : Obligations.FatalEntryDisablesInterrupts := by
  intro s kind w hs hrest hw
  obtain ⟨t, hset, _, hreach⟩ := raiseFatal_settles hs hrest.run hrest.env hw kind
  have hexec : exec (.sysFatal kind) s = .next t := byMain_of_settles hrest hreach hset (by omega)
  obtain ⟨u, n, hu, hrun⟩ := byMain_next_call hrest hexec
  obtain rfl := Host.Outcome.next.inj hu
  obtain ⟨hunderway, hframe, hphase⟩ := runTurns_enterFatal hs hrest.run hrest.env hrun
  obtain ⟨m, hm, hpushed⟩ := hphase.settled hset
  refine ⟨t, hexec, hunderway.inFatal, hunderway, ?_, m, hm, hpushed.wr, hpushed.store⟩
  have htx : t.tx = s.tx.set .ch0 t.tx.c0 := Four.eq_set hframe.tx
  have hready : t.txReady = s.txReady.set .ch0 t.txReady.c0 := Four.eq_set hframe.txReady
  have hwire : t.wireOut = s.wireOut.set .ch0 t.wireOut.c0 := Four.eq_set hframe.wireOut
  rw [← htx, ← hready, ← hwire, ← hunderway.1]
  exact hframe.rest

end Machine

end Sys2Proof
end

section
/-!
The obligations of 70_reset: startup (R310, R311), the configuration (R312), and the races of a pop with drop-oldest pushes
(R321, R322).
-/
namespace Sys2Proof.Machine

/-! ### The configuration -/

theorem access_cfg (m : Micro) (s : State) : Res.All (access m s) (·.cfg = s.cfg) := by
  intro t ht
  rcases access_cases m s t ht with k | hline | ⟨_, rfl⟩
  · exact k.cfg
  · obtain ⟨_, _, k, _⟩ := hline.keeps
    exact k.cfg
  · rfl

theorem cfg_stepInvariant (cfg : Config) : StepInvariant (·.cfg = cfg) where
  readied hs h := by
    obtain ⟨_, _, _, _, _, _, rfl⟩ := h
    exact hs
  reset hs _ h := by
    obtain ⟨_, _, _, _, _, _, rfl⟩ := h
    exact hs
  event hs h := h.keeps.cfg.trans hs
  access hs _ _ := (access_cfg _ _).imp fun _ h => h.trans hs

/-- Settles O56: the configuration is kept by every part of a step, the reset included. -/
theorem stepKeepsConfiguration : Obligations.StepKeepsConfiguration := fun s _ h =>
  (cfg_stepInvariant s.cfg).step rfl h

/-! ### Startup -/

section
variable {s : State}

/-- The first step of `MAIN` after a reset (R310). -/
theorem step_startPending (hreq : s.requests = []) (hrun : s.run = .running) (hmain : s.main = [])
    (hstart : s.startPending = true) : step s = exec .sysStart s := by
  calc step s = mainLoop s := by simp only [step, hreq, hrun, if_true]
    _ = runMain (s.setMain [.call .sysStart]) := by simp only [mainLoop, hmain, hstart, if_true]
    _ = byMain .sysStart s := by rw [byMain, if_pos hrun, hmain, List.nil_append]

/-- `SYS.START` with room for the banner (R311). -/
theorem exec_sysStart (hs : s.wf) (hrest : s.atRest) (hroom : s.room .ch0 banner.length) :
    exec .sysStart s = .next (afterEmitAll .ch0 banner { s with ie := true, startPending := false }) := by
  have hstarted : State.HasRoom .ch0 banner.length { s with ie := true, startPending := false } :=
    ⟨hrest.run, hrest.env, rfl, hs.keeps (.same .refl), hroom⟩
  exact byMain_answers hrest hstarted rfl

end

/-- Settles O3: the reset's values, the loop's first call, and a banner that finds room. -/
theorem startupRunsFirstAndQueuesBanner : Obligations.StartupRunsFirstAndQueuesBanner :=
  ⟨fun s => ⟨resetEvent s, rfl, rfl, rfl, rfl⟩, fun _ => step_startPending, fun _ => exec_sysStart⟩

/-! ### Drop-oldest pushes into a full buffer -/

section
variable {s : State} {q : Queue}

/-- The byte goes to the one slot that holds none, the one before `rd`; both indices go on by one. -/
theorem afterPushd_ring_full (hf : s.isFull q = true) (b : Byte) :
    (s.afterPushd q b).ring q =
      { store := Memory.write (s.ring q).store (s.ring q).wr b
        rd := nextIndex (s.capacity q) (s.ring q).rd
        wr := (s.ring q).rd } := by
  have hwr : nextIndex (s.capacity q) (s.ring q).wr = (s.ring q).rd := beq_iff_eq.mp hf
  rw [State.afterPushd, State.ring_setRing, if_pos hf, hwr]

theorem afterPushd_isFull (hf : s.isFull q = true) (b : Byte) : (s.afterPushd q b).isFull q = true := by
  rw [State.isFull, afterPushd_ring_full hf]
  exact beq_self_eq_true _

end

/-! ### Bytes received in the middle of an operation -/

/-- After the bytes `ds` have been received on channel `c`, one after another. -/
def State.afterRxBytes (s : State) (c : Channel) (ds : List Byte) : State :=
  ds.foldl (fun t d => t.afterPushd (.rx c) d) s

section
variable {s : State} {c : Channel}

theorem afterRxBytes_keeps (hs : s.wf) (c : Channel) (ds : List Byte) : s.Keeps (s.afterRxBytes c ds) := by
  induction ds generalizing s with
  | nil => exact .refl
  | cons d ds ih =>
    have hd := afterPushd_keeps (q := .rx c) hs d
    exact hd.trans (ih (hs.keeps hd))

theorem afterRxBytes_main (s : State) (c : Channel) (ds : List Byte) : (s.afterRxBytes c ds).main = s.main := by
  induction ds generalizing s with
  | nil => rfl
  | cons d ds ih => exact ih _

theorem afterRxBytes_run (s : State) (c : Channel) (ds : List Byte) : (s.afterRxBytes c ds).run = s.run := by
  induction ds generalizing s with
  | nil => rfl
  | cons d ds ih => exact ih _

/-- A turn that the schedule leaves to `MAIN`. -/
theorem runTurns_mainTurn {es : List Turn} {m : Micro} {ms : List Micro} {t : State} (hrun : s.run = .running)
    (henv : s.env = .main :: es) (h : access m ((s.setEnv es).setMain ms) = .next t) (n : Nat) :
    runTurns (n + 1) (s.setMain (m :: ms)) = runTurns n t := by
  have hturn : turn (s.setMain (m :: ms)) = .next t := by simp only [turn, State.setMain_env, henv]; exact h
  exact runTurns_turn (s := s.setMain (m :: ms)) hrun (List.cons_ne_nil _ _) (by simp [henv]) hturn n

/-- `RB.POP` s1 in such a turn. -/
theorem runTurns_mainTurn_rbPop {es : List Turn} {q : Queue} (hrun : s.run = .running) (henv : s.env = .main :: es)
    (n : Nat) : runTurns (n + 1) (s.setMain [.call (.rbPop q)]) =
      runTurns n ((s.setEnv es).setMain [.popWr q (s.ring q).rd]) :=
  runTurns_mainTurn hrun henv rfl n

/-- Bytes received with `I = 1` are pushed, wherever `MAIN` stands inside an operation. -/
theorem runTurns_rxBytes {ms : List Micro} (hs : s.wf) (hrun : s.run = .running) (hi : s.ie = true) (hms : ms ≠ [])
    (ds : List Byte) (n : Nat) :
    runTurns (n + ds.length) ((s.setEnv (ds.map (.rxByte c))).setMain ms) =
      runTurns n (((s.afterRxBytes c ds).setEnv []).setMain ms) := by
  induction ds generalizing s with
  | nil => rfl
  | cons d ds ih =>
    have hat : ((s.setEnv (ds.map (.rxByte c))).setMain ms).wf :=
      ⟨hs.cfg, hs.rings, hs.lines, hs.mask, hs.last, hs.pins, hs.isr⟩
    have hturn : turn ((s.setEnv ((d :: ds).map (.rxByte c))).setMain ms) =
        .next (((s.afterPushd (.rx c) d).setEnv (ds.map (.rxByte c))).setMain ms) := rxiHandler_eq hat hi c d
    have hrest := ih (hs.keeps (afterPushd_keeps (q := .rx c) hs d)) hrun hi
    rw [List.length_cons, ← Nat.add_assoc, runTurns_turn (by exact hrun) hms (List.cons_ne_nil _ _) hturn, hrest]
    rfl

end

/-! ### A pop raced by received bytes -/

/-- `RB.POP` s3 and s4 for the `rd` read as `r` at s1, `MAIN` alone. -/
theorem runTurns_popStore {s : State} {q : Queue} {r : Nat} {y : Byte} (hrun : s.run = .running) (henv : s.env = [])
    (hread : readSlot q r s = .ok y) (rest : List Micro) (n : Nat) :
    runTurns (n + 2) (s.setMain (.popStore q r :: rest)) =
      runTurns n (((s.setRd q (nextIndex (s.capacity q) r)).withRet (.byte (some y))).setMain rest) := by
  have hstore : access (.popStore q r) (s.setMain rest) = .next (s.setMain (.popRd q r y :: rest)) := by
    have hread' : readSlot q r (s.setMain rest) = .ok y := hread
    simp only [access, atPopStore, hread', State.setMain_push, List.singleton_append]
  rw [runTurns_access hrun henv _ _ rfl, hstore, andThen_next]
  exact runTurns_access hrun henv (.popRd q r y) rest rfl n

section
variable {s : State} {c : Channel} {ds : List Byte} (hs : s.wf) (hrun : s.run = .running) (hmain : s.main = [])
  (hi : s.ie = true)
include hs hrun hmain hi

/-- Bytes between s2 and s3 (R321): the pop delivers what they leave in the slot read as `rd` at s1, and writes the
successor of that `rd`. -/
theorem exec_rbPop_raced {y : Byte} (hne : (s.ring (.rx c)).rd ≠ (s.ring (.rx c)).wr)
    (hread : Memory.read ((s.afterRxBytes c ds).ring (.rx c)).store (s.ring (.rx c)).rd = some y)
    (henv : s.env = .main :: .main :: ds.map (.rxByte c)) :
    exec (.rbPop (.rx c)) s = .next ((((s.afterRxBytes c ds).setEnv []).setRd (.rx c)
      (nextIndex (s.capacity (.rx c)) (s.ring (.rx c)).rd)).withRet (.byte (some y))) := by
  have hcap : (s.afterRxBytes c ds).capacity (.rx c) = s.capacity (.rx c) :=
    State.capacity_of_cfg _ (afterRxBytes_keeps hs c ds).cfg
  have hslot : readSlot (.rx c) (s.ring (.rx c)).rd ((s.afterRxBytes c ds).setEnv []) = .ok y :=
    readSlot_ok.mpr ⟨hcap.symm ▸ hs.rd_lt (.rx c), hread⟩
  have hdone : (s.afterRxBytes c ds).main = [] := (afterRxBytes_main s c ds).trans hmain
  have hs2 : access (.popWr (.rx c) (s.ring (.rx c)).rd) ((s.setEnv (ds.map (.rxByte c))).setMain []) =
      .next ((s.setEnv (ds.map (.rxByte c))).setMain [.popStore (.rx c) (s.ring (.rx c)).rd]) := if_neg hne
  refine byMain_of_settled hrun hmain (k := 2 + ds.length + 1 + 1) (fun n => ?_) ?_ (settled_of_done hdone)
  · simp only [← Nat.add_assoc]
    rw [runTurns_mainTurn_rbPop hrun henv,
      runTurns_mainTurn (s := s.setEnv (.main :: ds.map (.rxByte c))) hrun rfl hs2,
      runTurns_rxBytes hs hrun hi (List.cons_ne_nil _ _),
      runTurns_popStore (by exact (afterRxBytes_run s c ds).trans hrun) rfl hslot, ← hcap, ← hdone]
    rfl
  · rw [henv, List.length_cons, List.length_cons, List.length_map]
    omega

/-- Bytes between s1 and s2 that bring `wr` to the `rd` read at s1 (R322): the pop answers `None` and writes nothing. -/
theorem exec_rbPop_stale (hwr : (s.ring (.rx c)).rd = ((s.afterRxBytes c ds).ring (.rx c)).wr)
    (henv : s.env = .main :: ds.map (.rxByte c)) :
    exec (.rbPop (.rx c)) s = .next (((s.afterRxBytes c ds).setEnv []).withRet (.byte none)) := by
  have hdone : (s.afterRxBytes c ds).main = [] := (afterRxBytes_main s c ds).trans hmain
  have hs2 : access (.popWr (.rx c) (s.ring (.rx c)).rd) (((s.afterRxBytes c ds).setEnv []).setMain []) =
      .next ((((s.afterRxBytes c ds).setEnv []).setMain []).withRet (.byte none)) := if_pos hwr
  refine byMain_of_settled hrun hmain (k := 1 + ds.length + 1) (fun n => ?_) ?_ (settled_of_done hdone)
  · simp only [← Nat.add_assoc]
    rw [runTurns_mainTurn_rbPop hrun henv, runTurns_rxBytes hs hrun hi (List.cons_ne_nil _ _),
      runTurns_access (by exact (afterRxBytes_run s c ds).trans hrun) rfl _ _ rfl, hs2, andThen_next, ← hdone]
    rfl
  · rw [henv, List.length_cons, List.length_map]
    omega

end

/-! ### The obligations on races -/

theorem State.holds.isFull {s : State} {q : Queue} {bs : List Byte} (hs : s.wf) (h : s.holds q bs)
    (hlen : bs.length + 1 = s.capacity q) : s.isFull q = true := by
  rw [hs.isFull_iff, ← h.length_eq]
  omega

/-- Settles O18: one drop leaves the slot read as `rd` alone and has itself written the successor; two drops have refilled
the slot, and its successor is where `wr` stands. -/
theorem popRacesDropOldest : Obligations.PopRacesDropOldest := by
  intro s c x bs hs hrun hmain hi hbs hlen
  have hf : s.isFull (.rx c) = true := hbs.isFull hs hlen
  obtain ⟨hne, hx, _⟩ := hbs.read hs
  constructor
  · intro b henv
    have hring := afterPushd_ring_full hf b
    have hread : Memory.read ((s.afterPushd (.rx c) b).ring (.rx c)).store (s.ring (.rx c)).rd = some x := by
      rw [hring, Memory.read_write_ne _ _ hne, hx]
    have hsame : (s.afterPushd (.rx c) b).setRd (.rx c) (nextIndex (s.capacity (.rx c)) (s.ring (.rx c)).rd) =
        s.afterPushd (.rx c) b := by
      have hrd : ((s.afterPushd (.rx c) b).ring (.rx c)).rd = nextIndex (s.capacity (.rx c)) (s.ring (.rx c)).rd :=
        congrArg Ring.rd hring
      rw [← hrd, State.setRd_self]
    have hleft := afterPushd_holds_full hs hbs hf b
    rw [← hsame] at hleft
    exact ⟨_, exec_rbPop_raced (ds := [b]) hs hrun hmain hi hne hread henv, rfl, hleft⟩
  · intro b1 b2 henv
    have hring := afterPushd_ring_full (afterPushd_isFull hf b1) b2
    rw [afterPushd_ring_full hf] at hring
    have hread : Memory.read ((s.afterRxBytes c [b1, b2]).ring (.rx c)).store (s.ring (.rx c)).rd = some b2 :=
      (congrArg (fun r : Ring => Memory.read r.store (s.ring (.rx c)).rd) hring).trans (Memory.read_write_same _ _ _)
    refine ⟨_, exec_rbPop_raced (ds := [b1, b2]) hs hrun hmain hi hne hread henv, rfl, ?_⟩
    refine (State.holds_nil ?_).length_eq.symm
    rw [State.withRet_ring, State.ring_setRd]
    exact (congrArg Ring.wr hring).symm

/-- Settles O19: the drop has brought `wr` to the slot that was the oldest byte's. -/
theorem staleEmptinessDelaysOnly : Obligations.StaleEmptinessDelaysOnly := by
  intro s c b x bs hs hrun hmain hi henv hbs hlen
  have hf : s.isFull (.rx c) = true := hbs.isFull hs hlen
  have hwr : (s.ring (.rx c)).rd = ((s.afterPushd (.rx c) b).ring (.rx c)).wr := by rw [afterPushd_ring_full hf]
  have hleft : (s.afterPushd (.rx c) b).holds (.rx c) (bs ++ [b]) := afterPushd_holds_full hs hbs hf b
  have hcount : (s.afterPushd (.rx c) b).count (.rx c) = s.capacity (.rx c) - 1 := by
    rw [← hleft.length_eq, List.length_append, List.length_singleton, ← hlen]
    rfl
  exact ⟨_, exec_rbPop_stale (ds := [b]) hs hrun hmain hi hwr henv, rfl, hleft, hcount⟩

end Sys2Proof.Machine
end
